-- ==== Sys2Proof/Word.lean ====
section
/-!
DEFINITION. The two word types of QRECC (spec/00_scope.md R8, R12; spec/10_state.md R20, R30).

Every value the spec calls a register, a CSR or a command word is 32 bits wide; every memory byte, codeword, field
element and table entry is 8 bits wide.  Bit 0 is the least significant bit of both (R8).
-/

namespace Sys2Proof

/-- A byte of `MEM`, a codeword, an element of GF(2^8) or a table entry (R30, R32, R90, R27). -/
abbrev Byte := BitVec 8

/-- A general register, a CSR or a command word (R20, R34, R70). -/
abbrev Word := BitVec 32

end Sys2Proof
end

