-- ==== Sys2Proof/Config.lean ====
section
/-!
DEFINITION. What the spec leaves to an implementation (spec/00_scope.md R6, spec/10_state.md R30,
spec/93_implementation_defined.md U1, U2, U6).

`MEM_BYTES` and `BLKTAB` are parameters of the model.  They are fields of the state (`State.memBytes`,
`State.blkTab`) that no step changes, so a statement about every state is a statement about every value of the two
parameters; the values here and in `Sys2Proof/Machine/BlockTable.lean` are only the ones `State.reset` carries.
-/

namespace Sys2Proof

/-- DESIGN CHOICE (log entry 2): the value of the OPEN parameter `MEM_BYTES` (R6) that `State.reset` carries, the one
the spec's test vectors use (92_eei_decisions.md, open parameters). -/
def Config.memBytes : Nat := 65536

/-- The power-up contents of `MEM`: a FREE VALUE for each address (log entry 1; R30, U1, U2).  It has no body, so
nothing can be proved about any of its values: a statement about it holds for every byte array. -/
opaque Config.powerUpByte : Nat → Byte

end Sys2Proof
end

