-- ==== Sys2Proof/Syntax.lean ====
section
/-!
DEFINITION. The 16 commands of QRECC (spec/30_encoding.md R77, R82; spec/opcode_table.json), one constructor per row.

Operands are written as the assembler of R82 writes them: register numbers, the counts `n` and `k`, the version as a
number, the ECC level by name, the threshold offset as a signed number.  `Sys2Proof/WellFormed.lean` says which
operands the 32-bit encoding can hold.
-/

namespace Sys2Proof

/-- A general register number, 0..15 (R20, R70). -/
abbrev Reg := Fin 16

/-- The ECC level, in the order of its ordinal (R16, R154). -/
inductive EccLevel where
  | L
  | M
  | Q
  | H
deriving DecidableEq, Repr

/-- A command (R77); operand names as in R82. -/
inductive Instr where
  /-- `GFINIT` (R95) -/
  | gfinit
  /-- `GFADD rd, ra, rb` (R96) -/
  | gfadd (rd ra rb : Reg)
  /-- `GFMUL rd, ra, rb` (R97) -/
  | gfmul (rd ra rb : Reg)
  /-- `GFDIV rd, ra, rb` (R98) -/
  | gfdiv (rd ra rb : Reg)
  /-- `GFINV rd, ra` (R99) -/
  | gfinv (rd ra : Reg)
  /-- `GFPOW rd, ra, rb` (R100) -/
  | gfpow (rd ra rb : Reg)
  /-- `GFEXP rd, ra` (R101) -/
  | gfexp (rd ra : Reg)
  /-- `GFLOG rd, ra` (R102) -/
  | gflog (rd ra : Reg)
  /-- `RSENC [ra], n, k` (R125) -/
  | rsenc (ra : Reg) (n k : Nat)
  /-- `RSDEC rd, [ra], n, k` (R127) -/
  | rsdec (rd ra : Reg) (n k : Nat)
  /-- `BCHFMT rd, ra, rb` (R153) -/
  | bchfmt (rd ra rb : Reg)
  /-- `BCHVER rd, ra` (R158) -/
  | bchver (rd ra : Reg)
  /-- `BLKINFO rd, ver, lvl` (R176) -/
  | blkinfo (rd : Reg) (ver : Nat) (lvl : EccLevel)
  /-- `DEINTL rl, [ra], [rb], ver, lvl` (R177) -/
  | deintl (rl ra rb : Reg) (ver : Nat) (lvl : EccLevel)
  /-- `INTL rl, [ra], [rb], ver, lvl` (R178) -/
  | intl (rl ra rb : Reg) (ver : Nat) (lvl : EccLevel)
  /-- `THRESH [ra], [rb], off, inv` (R191) -/
  | thresh (ra rb : Reg) (off : Int) (inv : Bool)
deriving DecidableEq, Repr

end Sys2Proof
end

