-- ==== Sys2Proof/WellFormed.lean ====
section
/-!
DEFINITION. Which commands the 32-bit encoding can hold (spec/30_encoding.md R74, R75, R76, R82).

Only the widths of the immediates are checked.  `k = 0`, `k >= n` or a version outside 1..40 is NOT ill-formed: those
words decode and the command ends in a typed failure (R74, R75).
-/

namespace Sys2Proof

/-- Every immediate fits its field: `n`, `k` unsigned 8 bits (R74), `ver` unsigned 6 bits (R75), `off` a signed decimal
in -128..127 (R76, R82).  Register numbers and the ECC level always fit. -/
def Instr.wf : Instr → Bool
  | .gfinit => true
  | .gfadd _ _ _ => true
  | .gfmul _ _ _ => true
  | .gfdiv _ _ _ => true
  | .gfinv _ _ => true
  | .gfpow _ _ _ => true
  | .gfexp _ _ => true
  | .gflog _ _ => true
  | .rsenc _ n k => decide (n < 256) && decide (k < 256)
  | .rsdec _ _ n k => decide (n < 256) && decide (k < 256)
  | .bchfmt _ _ _ => true
  | .bchver _ _ => true
  | .blkinfo _ ver _ => decide (ver < 64)
  | .deintl _ _ _ ver _ => decide (ver < 64)
  | .intl _ _ _ ver _ => decide (ver < 64)
  | .thresh _ _ off _ => decide (-128 ≤ off) && decide (off ≤ 127)

end Sys2Proof
end

