-- ==== Sys2Proof/Decode.lean ====
section
/-!
DEFINITION. Decoding a command word and encoding a command (spec/30_encoding.md R70 to R81, R85).

The decoder is R85's procedure over R77's table: look the opcode byte up, check `w and mask = match`, extract the
fields.  The encoder places the same fields with the patterns of R71 to R76.
-/

namespace Sys2Proof

/-! ## Bit slices -/

/-- `v[hi:lo]` of R8, an unsigned number. -/
def slice (v : Word) (hi lo : Nat) : Nat := v.toNat / 2 ^ lo % 2 ^ (hi - lo + 1)

/-- The register number in the four bits from `lo` upward (R70). -/
def regField (v : Word) (lo : Nat) : Reg := Fin.ofNat 16 (v.toNat / 2 ^ lo)

/-- `sext` of the 8-bit field `off8` (R76). -/
def sext8 (v : Nat) : Int := if v < 128 then (v : Int) else (v : Int) - 256

/-- The 8-bit two's-complement field that holds `off` (R76). -/
def off8 (off : Int) : Nat := (off % 256).toNat

/-- The ECC level of an ordinal 0..3 (R75, R154). -/
def EccLevel.ofOrd (n : Nat) : EccLevel :=
  match n with
  | 0 => .L
  | 1 => .M
  | 2 => .Q
  | _ => .H

/-- The ordinal of an ECC level: L = 0, M = 1, Q = 2, H = 3 (R154). -/
def EccLevel.ord : EccLevel → Nat
  | .L => 0
  | .M => 1
  | .Q => 2
  | .H => 3

/-- The level in `imm12[7:6]` (R75). -/
def eclField (v : Word) : EccLevel := EccLevel.ofOrd (slice v 7 6)

/-! ## The opcode map (R77) -/

/-- One row of R77's table. -/
structure OpRow where
  /-- the mnemonic -/
  mnemonic : String
  /-- the opcode, `w[31:24]` -/
  op : Nat
  /-- the value the word must have under `mask` (R77's column `match`) -/
  pattern : Word
  /-- the bits that are fixed for this row -/
  mask : Word
  /-- the command, its operands taken from the word by the row's format (R71 to R76) -/
  operands : Word → Instr

/-- The assigned opcodes (R77). -/
def opTable : List OpRow :=
  [ ⟨"GFINIT", 0x10, 0x10000000#32, 0xFFFFFFFF#32, fun _ => .gfinit⟩,
    ⟨"GFADD", 0x11, 0x11000000#32, 0xFF000FFF#32, fun w => .gfadd (regField w 20) (regField w 16) (regField w 12)⟩,
    ⟨"GFMUL", 0x12, 0x12000000#32, 0xFF000FFF#32, fun w => .gfmul (regField w 20) (regField w 16) (regField w 12)⟩,
    ⟨"GFDIV", 0x13, 0x13000000#32, 0xFF000FFF#32, fun w => .gfdiv (regField w 20) (regField w 16) (regField w 12)⟩,
    ⟨"GFINV", 0x14, 0x14000000#32, 0xFF00FFFF#32, fun w => .gfinv (regField w 20) (regField w 16)⟩,
    ⟨"GFPOW", 0x15, 0x15000000#32, 0xFF000FFF#32, fun w => .gfpow (regField w 20) (regField w 16) (regField w 12)⟩,
    ⟨"GFEXP", 0x16, 0x16000000#32, 0xFF00FFFF#32, fun w => .gfexp (regField w 20) (regField w 16)⟩,
    ⟨"GFLOG", 0x17, 0x17000000#32, 0xFF00FFFF#32, fun w => .gflog (regField w 20) (regField w 16)⟩,
    ⟨"RSENC", 0x20, 0x20000000#32, 0xFFF00000#32, fun w => .rsenc (regField w 16) (slice w 15 8) (slice w 7 0)⟩,
    ⟨"RSDEC", 0x21, 0x21000000#32, 0xFF000000#32,
      fun w => .rsdec (regField w 20) (regField w 16) (slice w 15 8) (slice w 7 0)⟩,
    ⟨"BCHFMT", 0x30, 0x30000000#32, 0xFF000FFF#32, fun w => .bchfmt (regField w 20) (regField w 16) (regField w 12)⟩,
    ⟨"BCHVER", 0x31, 0x31000000#32, 0xFF00FFFF#32, fun w => .bchver (regField w 20) (regField w 16)⟩,
    ⟨"BLKINFO", 0x40, 0x40000000#32, 0xFF0FFF00#32, fun w => .blkinfo (regField w 20) (slice w 5 0) (eclField w)⟩,
    ⟨"DEINTL", 0x41, 0x41000000#32, 0xFF000F00#32,
      fun w => .deintl (regField w 20) (regField w 16) (regField w 12) (slice w 5 0) (eclField w)⟩,
    ⟨"INTL", 0x42, 0x42000000#32, 0xFF000F00#32,
      fun w => .intl (regField w 20) (regField w 16) (regField w 12) (slice w 5 0) (eclField w)⟩,
    ⟨"THRESH", 0x50, 0x50000000#32, 0xFFF00E00#32,
      fun w => .thresh (regField w 16) (regField w 12) (sext8 (slice w 7 0)) (slice w 8 8 == 1)⟩ ]

/-- Why a word is no command. -/
inductive DecodeError where
  /-- the opcode byte is not one of the 16 of R77 (R79) -/
  | unassignedOpcode
  /-- the opcode is assigned and a must-be-zero field is not zero (R78) -/
  | nonZeroMustBeZeroField
deriving DecidableEq, Repr

/-- R85: the command a word selects, total on all `2^32` words.  Decoding reads no state. -/
def decode (w : Word) : Except DecodeError Instr :=
  match opTable.find? (fun r => r.op == slice w 31 24) with
  | none => .error .unassignedOpcode
  | some r => if w &&& r.mask = r.pattern then .ok (r.operands w) else .error .nonZeroMustBeZeroField

/-! ## The encoder (R71 to R76) -/

/-- The word with opcode `op`, `f1`, `ra`, `rb` and `imm12` in the places of R70 (formats Z, R3, R2, V and T). -/
def fields (op f1 ra rb imm12 : Nat) : Word :=
  BitVec.ofNat 32 (op * 2 ^ 24 + f1 * 2 ^ 20 + ra * 2 ^ 16 + rb * 2 ^ 12 + imm12)

/-- Format M (R74): `n` in 15:8 and `k` in 7:0 instead of `rb` and `imm12`. -/
def fieldsM (op f1 ra n k : Nat) : Word :=
  BitVec.ofNat 32 (op * 2 ^ 24 + f1 * 2 ^ 20 + ra * 2 ^ 16 + n % 256 * 2 ^ 8 + k % 256)

/-- `imm12` of format V (R75): `0000 ee vvvvvv`. -/
def immV (ver : Nat) (lvl : EccLevel) : Nat := lvl.ord * 2 ^ 6 + ver % 64

/-- `imm12` of format T (R76): `000 i ffffffff`. -/
def immT (off : Int) (inv : Bool) : Nat := inv.toNat * 2 ^ 8 + off8 off

/-- The command word of a command.  An immediate that does not fit its field (not `Instr.wf`) is cut to the
field (DESIGN CHOICE, log entry 11; the decoder gives none). -/
def encode : Instr → Word
  | .gfinit => fields 0x10 0 0 0 0
  | .gfadd rd ra rb => fields 0x11 rd ra rb 0
  | .gfmul rd ra rb => fields 0x12 rd ra rb 0
  | .gfdiv rd ra rb => fields 0x13 rd ra rb 0
  | .gfinv rd ra => fields 0x14 rd ra 0 0
  | .gfpow rd ra rb => fields 0x15 rd ra rb 0
  | .gfexp rd ra => fields 0x16 rd ra 0 0
  | .gflog rd ra => fields 0x17 rd ra 0 0
  | .rsenc ra n k => fieldsM 0x20 0 ra n k
  | .rsdec rd ra n k => fieldsM 0x21 rd ra n k
  | .bchfmt rd ra rb => fields 0x30 rd ra rb 0
  | .bchver rd ra => fields 0x31 rd ra 0 0
  | .blkinfo rd ver lvl => fields 0x40 rd 0 0 (immV ver lvl)
  | .deintl rl ra rb ver lvl => fields 0x41 rl ra rb (immV ver lvl)
  | .intl rl ra rb ver lvl => fields 0x42 rl ra rb (immV ver lvl)
  | .thresh ra rb off inv => fields 0x50 0 ra rb (immT off inv)

/-! ## The host's question -/

/-- The command the decoder reads from a table word of `nbits` bits; every bit above `nbits` is 0.  A command word is
one 32-bit value, never bytes (R52, R70), so nothing is laid out in memory. -/
def decodeTableWord (nbits w : Nat) : Option Instr := (decode (BitVec.ofNat 32 (w % 2 ^ nbits))).toOption

end Sys2Proof
end

