-- ==== Sys2Proof/Machine/BlockTable.lean ====
section
/-!
DEFINITION. The contents of the block table `BLKTAB` (spec/94_block_table.md section 6, spec/43_interleave.md R171, R172).

`BLKTAB` is a parameter of the model (R6, D21): the state carries it (`State.blkTab`), no step changes it, and these
160 words are the ones `State.reset` carries (log entry 3).
-/

namespace Sys2Proof.Machine

/-- Versions 1 to 10, levels L, M, Q, H of each in turn. -/
def blkWords1To10 : List Word :=
  [ 0x00130107#32, 0x0010010A#32, 0x000D010D#32, 0x00090111#32, 0x0022010A#32, 0x001C0110#32, 0x00160116#32, 0x0010011C#32,
    0x0037010F#32, 0x002C011A#32, 0x00110212#32, 0x000D0216#32, 0x00500114#32, 0x00200212#32, 0x0018021A#32, 0x00090410#32,
    0x006C011A#32, 0x002B0218#32, 0x020F0212#32, 0x020B0216#32, 0x00440212#32, 0x001B0410#32, 0x00130418#32, 0x000F041C#32,
    0x004E0214#32, 0x001F0412#32, 0x040E0212#32, 0x010D041A#32, 0x00610218#32, 0x02260216#32, 0x02120416#32, 0x020E041A#32,
    0x0074021E#32, 0x02240316#32, 0x04100414#32, 0x040C0418#32, 0x02440212#32, 0x012B041A#32, 0x02130618#32, 0x020F061C#32 ]

/-- Versions 11 to 20, levels L, M, Q, H of each in turn. -/
def blkWords11To20 : List Word :=
  [ 0x00510414#32, 0x0432011E#32, 0x0416041C#32, 0x080C0318#32, 0x025C0218#32, 0x02240616#32, 0x0614041A#32, 0x040E071C#32,
    0x006B041A#32, 0x01250816#32, 0x04140818#32, 0x040B0C16#32, 0x0173031E#32, 0x05280418#32, 0x05100B14#32, 0x050C0B18#32,
    0x01570516#32, 0x05290518#32, 0x0718051E#32, 0x070C0B18#32, 0x01620518#32, 0x032D071C#32, 0x02130F18#32, 0x0D0F031E#32,
    0x056B011C#32, 0x012E0A1C#32, 0x0F16011C#32, 0x110E021C#32, 0x0178051E#32, 0x042B091A#32, 0x0116111C#32, 0x130E021C#32,
    0x0471031C#32, 0x0B2C031A#32, 0x0415111A#32, 0x100D091A#32, 0x056B031C#32, 0x0D29031A#32, 0x05180F1E#32, 0x0A0F0F1C#32 ]

/-- Versions 21 to 30, levels L, M, Q, H of each in turn. -/
def blkWords21To30 : List Word :=
  [ 0x0474041C#32, 0x002A111A#32, 0x0616111C#32, 0x0610131E#32, 0x076F021C#32, 0x002E111C#32, 0x1018071E#32, 0x000D2218#32,
    0x0579041E#32, 0x0E2F041C#32, 0x0E180B1E#32, 0x0E0F101E#32, 0x0475061E#32, 0x0E2D061C#32, 0x10180B1E#32, 0x02101E1E#32,
    0x046A081A#32, 0x0D2F081C#32, 0x1618071E#32, 0x0D0F161E#32, 0x02720A1C#32, 0x042E131C#32, 0x06161C1C#32, 0x0410211E#32,
    0x047A081E#32, 0x032D161C#32, 0x1A17081E#32, 0x1C0F0C1E#32, 0x0A75031E#32, 0x172D031C#32, 0x1F18041E#32, 0x1F0F0B1E#32,
    0x0774071E#32, 0x072D151C#32, 0x2517011E#32, 0x1A0F131E#32, 0x0A73051E#32, 0x0A2F131C#32, 0x19180F1E#32, 0x190F171E#32 ]

/-- Versions 31 to 40, levels L, M, Q, H of each in turn. -/
def blkWords31To40 : List Word :=
  [ 0x03730D1E#32, 0x1D2E021C#32, 0x01182A1E#32, 0x1C0F171E#32, 0x0073111E#32, 0x172E0A1C#32, 0x23180A1E#32, 0x230F131E#32,
    0x0173111E#32, 0x152E0E1C#32, 0x13181D1E#32, 0x2E0F0B1E#32, 0x06730D1E#32, 0x172E0E1C#32, 0x07182C1E#32, 0x01103B1E#32,
    0x07790C1E#32, 0x1A2F0C1C#32, 0x0E18271E#32, 0x290F161E#32, 0x0E79061E#32, 0x222F061C#32, 0x0A182E1E#32, 0x400F021E#32,
    0x047A111E#32, 0x0E2E1D1C#32, 0x0A18311E#32, 0x2E0F181E#32, 0x127A041E#32, 0x202E0D1C#32, 0x0E18301E#32, 0x200F2A1E#32,
    0x0475141E#32, 0x072F281C#32, 0x16182B1E#32, 0x430F0A1E#32, 0x0676131E#32, 0x1F2F121C#32, 0x2218221E#32, 0x3D0F141E#32 ]

/-- `BLKTAB` as spec/94_block_table.md prints it; index `4*(ver-1) + ecl`. -/
def standardBlkTab : List Word :=
  blkWords1To10 ++ blkWords11To20 ++ blkWords21To30 ++ blkWords31To40

end Sys2Proof.Machine
end

