-- ==== Sys2Proof/Machine/State.lean ====
section
/-!
DEFINITION. The state of one QRECC and its value right after reset (spec/10_state.md, spec/60_exceptions.md R232,
spec/70_reset_and_hazards.md R251).

The state of the block is R46's list: general registers, field tables, `TBLRDY`, `MEM`, `STATE` and eight stored CSRs
(`STATUS` is the view of `STATE` and `TBLRDY`, R35).  Four more fields are the MODEL's own: the two parameters of the
instance (R6), the host transactions not yet carried out, and the value the latest one returned (R232).
-/

namespace Sys2Proof.Machine

/-- `STATUS[1:0] = STATE` (R35); the value 3 never occurs, so it has no constructor. -/
inductive RunState where
  /-- 0: commands execute -/
  | ready
  /-- 1: a typed failure is recorded and not acknowledged -/
  | failed
  /-- 2: a fatal defect is recorded; only reset leaves this state (R221) -/
  | fatal
deriving DecidableEq, Repr

/-- A host transaction (R232).  Values and addresses are unbounded numbers; R234 and R235 say which bits are used.  A
register index above 15 cannot be formed (R234). -/
inductive HostTx where
  /-- `Reset()` (R237) -/
  | reset
  /-- `Issue(w)` (R233) -/
  | issue (w : Word)
  /-- `RegRead(i)` (R234) -/
  | regRead (i : Reg)
  /-- `RegWrite(i, v)` (R234) -/
  | regWrite (i : Reg) (v : Nat)
  /-- `MemRead(a)` (R235) -/
  | memRead (a : Nat)
  /-- `MemWrite(a, v)` (R235) -/
  | memWrite (a v : Nat)
  /-- `CsrRead(a)` (R236) -/
  | csrRead (a : Nat)
  /-- `CsrWrite(a, v)` (R236) -/
  | csrWrite (a v : Nat)
deriving DecidableEq, Repr

/-- What a host transaction returned (R232). -/
inductive Reply where
  /-- the transaction returns no value -/
  | nothing
  /-- the 32 bits of `RegRead` and `CsrRead` -/
  | word (v : Word)
  /-- the 8 bits of `MemRead` -/
  | byte (v : Byte)
deriving DecidableEq, Repr

/-- `MEM` (R30): (address, byte) pairs, addresses strictly rising.  An address that is not listed holds no value:
nothing has written it since power-up.  What reading it gives is `Memory.read` of `Sys2Proof/Machine/Ops.lean`. -/
abbrev Memory := List Host.Cell

/-- The canonical form of `Memory`: addresses strictly rising.  An unlisted address holds no value, so no entry can
equal what an unlisted address holds, and equal memories are equal lists. -/
abbrev Memory.wf (m : Memory) : Prop := m.Pairwise (fun c d => c.1 < d.1)

/-- The state of one QRECC. -/
structure State where
  /-- `r[0..15]` (R20) -/
  regs : Vector Word 16
  /-- `EXP[0..255]` (R27) -/
  exp : Vector Byte 256
  /-- `LOG[1..255]` (R27); `LOG[a]` is at index `a - 1`, there is no `LOG[0]` -/
  log : Vector Byte 255
  /-- `TBLRDY` (R28) -/
  tblRdy : Bool
  /-- `MEM[0 .. MEM_BYTES-1]` (R30) -/
  mem : Memory
  /-- `STATE` (R35) -/
  run : RunState
  /-- `ERR`, CSR 1 (R36) -/
  err : Word
  /-- `ERRCMD`, CSR 2 (R37) -/
  errCmd : Word
  /-- `ERRAUX`, CSR 3 (R37) -/
  errAux : Word
  /-- `FMTMASK`, CSR 4 (R38) -/
  fmtMask : Word
  /-- `IMGW`, CSR 5 (R39) -/
  imgW : Word
  /-- `IMGH`, CSR 6 (R40) -/
  imgH : Word
  /-- `IMGFMT`, CSR 7 (R41) -/
  imgFmt : Word
  /-- `THRCFG`, CSR 8 (R42) -/
  thrCfg : Word
  /-- the MODEL's own: the parameter `MEM_BYTES` of this instance (R6); no step changes it -/
  memBytes : Nat
  /-- the MODEL's own: the parameter `BLKTAB` of this instance (R6, R29), index `4*(ver-1) + ecl`; no step changes it -/
  blkTab : List Word
  /-- the MODEL's own: the host transactions still to be carried out, the next one first (R232) -/
  port : List HostTx
  /-- the MODEL's own: what the latest host transaction returned (R232) -/
  reply : Reply
deriving DecidableEq, Repr

/-- The reasons a step can end in a fault: none.  Every error of the spec is an error ENTRY (R214, R215, R235), after
which the instance goes on in `FAILED` or `FATAL` and answers the host, so it is a next state; and the spec has no
behaviour marked undefined (93_implementation_defined.md, end of part 1).  Nobody raises a fault, which is safe: no
step is cut short. -/
inductive Fault where
deriving DecidableEq, Repr

/-- The reasons an instruction is refused. -/
inductive Refusal where
  /-- The instruction of this mnemonic has no meaning in the model yet; raised by an arm of `exec` only, and safe (the
  step answers nothing).  No arm raises it. -/
  | notModelled (mnemonic : String)
deriving DecidableEq, Repr

/-- The machine right after power-up and `Reset()` (R46, R251).  `MEM` has nothing listed: reset does not write it and
nothing has been written since power-up.  The contents of `EXP` and `LOG` are unspecified while `TBLRDY = 0`; they are
zero here (DESIGN CHOICE, log entry 4).  The two parameters have the values of log entries 2 and 3, no transaction is
pending and none has returned a value (log entry 5). -/
def State.reset : State where
  regs := Vector.replicate 16 0
  exp := Vector.replicate 256 0
  log := Vector.replicate 255 0
  tblRdy := false
  mem := []
  run := .ready
  err := 0
  errCmd := 0
  errAux := 0
  fmtMask := 0x5412
  imgW := 0
  imgH := 0
  imgFmt := 0
  thrCfg := 0x023
  memBytes := Config.memBytes
  blkTab := standardBlkTab
  port := []
  reply := .nothing

end Sys2Proof.Machine
end

