-- ==== Sys2Proof/Machine/Flags.lean ====
section
/-!
DEFINITION. The status the block leaves besides its results (spec/10_state.md R24, R34 to R43, spec/60_exceptions.md
R211).

There are no condition codes: no command sets or reads a carry, zero, overflow or sign flag (R24).  What there is: the
`STATUS` view, the error kinds with their codes and classes, and the bits each CSR has.
-/

namespace Sys2Proof.Machine

/-- The number in `STATUS[1:0]` (R35). -/
def RunState.code : RunState → Nat
  | .ready => 0
  | .failed => 1
  | .fatal => 2

/-- What `STATUS` reads (R35): `STATE` in bits 1:0, `TBLRDY` in bit 8, every other bit 0. -/
def State.status (s : State) : Word := BitVec.ofNat 32 (s.run.code + 256 * s.tblRdy.toNat)

/-- The error kinds of R211, the five that no command of this block raises among them. -/
inductive ErrKind where
  | patternNotFound
  | alignmentNotFound
  | geometryInvalid
  | formatInfoUnrecoverable
  | versionInfoUnrecoverable
  | reedSolomonUnrecoverable
  | unsupportedEci
  | invalidBitStream
  | imageTooSmall
  | invalidInput
  | indexOutOfBounds
  | gfZeroOperand
  | tablesNotReady
  | illegalCommand
deriving DecidableEq, Repr

/-- The code table (R211). -/
def ErrKind.code : ErrKind → Word
  | .patternNotFound => 0x01
  | .alignmentNotFound => 0x02
  | .geometryInvalid => 0x03
  | .formatInfoUnrecoverable => 0x04
  | .versionInfoUnrecoverable => 0x05
  | .reedSolomonUnrecoverable => 0x06
  | .unsupportedEci => 0x07
  | .invalidBitStream => 0x08
  | .imageTooSmall => 0x09
  | .invalidInput => 0x0A
  | .indexOutOfBounds => 0x80
  | .gfZeroOperand => 0x81
  | .tablesNotReady => 0x82
  | .illegalCommand => 0x83

/-- The class of a kind as the `STATE` it leads to (R210, R211): a typed failure or a fatal defect. -/
def ErrKind.target : ErrKind → RunState
  | .patternNotFound => .failed
  | .alignmentNotFound => .failed
  | .geometryInvalid => .failed
  | .formatInfoUnrecoverable => .failed
  | .versionInfoUnrecoverable => .failed
  | .reedSolomonUnrecoverable => .failed
  | .unsupportedEci => .failed
  | .invalidBitStream => .failed
  | .imageTooSmall => .failed
  | .invalidInput => .failed
  | .indexOutOfBounds => .fatal
  | .gfZeroOperand => .fatal
  | .tablesNotReady => .fatal
  | .illegalCommand => .fatal

/-- The named bits of `FMTMASK` (R38). -/
def fmtMaskBits : Word := 0x7FFF

/-- The named bits of `IMGW` and of `IMGH` (R39, R40). -/
def imgSideBits : Word := 0xFFFF

/-- The named bits of `IMGFMT` (R41). -/
def imgFmtBits : Word := 0x3

/-- The named bits of `THRCFG` (R42): 3:0, 6:4 and 8. -/
def thrCfgBits : Word := 0x17F

end Sys2Proof.Machine
end

