-- ==== Sys2Proof/Machine/Ops.lean ====
section
/-!
DEFINITION. The named operations over registers, memory, tables and CSRs, the entry of an error and the return from it
(spec/10_state.md, spec/20_memory.md, spec/60_exceptions.md R213 to R221).
-/

namespace Sys2Proof.Machine

/-- What one step answers. -/
abbrev Result := Host.Outcome State Fault Refusal

/-! ## General registers (R20, R21) -/

/-- `r[i]`. -/
def State.reg (s : State) (i : Reg) : Word := s.regs[i]

/-- `r[i] <- v`. -/
def State.setReg (s : State) (i : Reg) (v : Word) : State := { s with regs := s.regs.set i.val v i.isLt }

/-! ## Memory (R30, R51, R52) -/

/-- The byte written last to `a`, or no value if nothing has written it since power-up. -/
def Memory.lookup (m : Memory) (a : Nat) : Option Byte := (m.find? (fun c => c.1 == a)).map (·.2)

/-- `MEM[a]`: the byte written last, else the free power-up byte of that address (R30, U1, U2; log entry 1). -/
def Memory.read (m : Memory) (a : Nat) : Byte := (m.lookup a).getD (Config.powerUpByte a)

/-- The cells of consecutive bytes from `base` upward. -/
def cellsFrom : Nat → List Byte → Memory
  | _, [] => []
  | base, b :: bs => (base, b) :: cellsFrom (base + 1) bs

/-- `MEM[base .. base+n-1] <- bs` for `n` bytes `bs`: what lies below, the new bytes, what lies above. -/
def Memory.writeBytes (m : Memory) (base : Nat) (bs : List Byte) : Memory :=
  m.filter (fun c => c.1 < base) ++ cellsFrom base bs ++ m.filter (fun c => base + bs.length ≤ c.1)

/-- `MEM[a] <- v`. -/
def Memory.write (m : Memory) (a : Nat) (v : Byte) : Memory := m.writeBytes a [v]

/-- The writes `MEM[a] <- v` of a list of pairs, the first pair first. -/
def Memory.writeAll (m : Memory) (cs : List Host.Cell) : Memory := cs.foldl (fun m c => m.write c.1 c.2) m

/-- `MEM[base .. base+n-1]`. -/
def Memory.readBytes (m : Memory) (base n : Nat) : List Byte := (List.range n).map (fun i => m.read (base + i))

/-- The byte at `a`, `MemRead(a)` of R10. -/
def State.byteAt (s : State) (a : Nat) : Byte := s.mem.read a

/-- The bytes `[base, base+n)`. -/
def State.bytesAt (s : State) (base n : Nat) : List Byte := s.mem.readBytes base n

/-- Write consecutive bytes. -/
def State.setBytes (s : State) (base : Nat) (bs : List Byte) : State := { s with mem := s.mem.writeBytes base bs }

/-- Write the bytes of a list of (address, byte) pairs, in its order. -/
def State.setCells (s : State) (cs : List Host.Cell) : State := { s with mem := s.mem.writeAll cs }

/-- The bounds check of a range `[base, base+len)` on unbounded integers (R55): nothing wraps (R51). -/
def State.inBounds (s : State) (base len : Nat) : Bool := decide (base + len ≤ s.memBytes)

/-- The overlap check (R56): the source and the destination range share a byte. -/
def overlap (src srcLen dst dstLen : Nat) : Bool := decide (src < dst + dstLen) && decide (dst < src + srcLen)

/-! ## The field tables (R27) -/

/-- `EXP[i mod 255]`, `0 <= i mod 255 <= 254` also for a negative `i` (R98, R101). -/
def State.expAt (s : State) (i : Int) : Byte := s.exp[(i % 255).toNat]'(by omega)

/-- `LOG[a]` for `a` in 1..255; every rule guards the read, `LOG[0]` does not exist (R27, U4). -/
def State.logAt (s : State) (a : Byte) : Nat := (s.log[a.toNat - 1]'(by omega)).toNat

/-! ## The entry of an error, and the return from it -/

/-- Entering an error (R213, R214, R215): `STATE` moves to the state of the kind's class, `ERR` records its code,
`ERRCMD` the command word (0 for a host access), `ERRAUX` the auxiliary value; nothing else changes. -/
def State.takeError (s : State) (k : ErrKind) (cmd aux : Word) : State :=
  { s with run := k.target, err := k.code, errCmd := cmd, errAux := aux }

/-- The acknowledge (R219): back to `READY` with the error registers cleared, nothing else changed. -/
def State.acknowledge (s : State) : State := { s with run := .ready, err := 0, errCmd := 0, errAux := 0 }

/-- A command ends with `fail K` (R214): `ERRAUX` is 0.  `encode i` is the word that was issued (DEDUCED, log entry 10). -/
def State.fail (s : State) (i : Instr) (k : ErrKind) : Result := .next (s.takeError k (encode i) 0)

/-- A command ends with `fatal K(aux)` (R215). -/
def State.defect (s : State) (i : Instr) (k : ErrKind) (aux : Word) : Result := .next (s.takeError k (encode i) aux)

/-! ## Control and status registers (R34 to R43) -/

/-- What `CsrRead(a)` returns; addresses 9 and above read 0. -/
def State.csr (s : State) (a : Nat) : Word :=
  match a with
  | 0 => s.status
  | 1 => s.err
  | 2 => s.errCmd
  | 3 => s.errAux
  | 4 => s.fmtMask
  | 5 => s.imgW
  | 6 => s.imgH
  | 7 => s.imgFmt
  | 8 => s.thrCfg
  | _ => 0

/-- What `CsrWrite(a, v)` does in `READY` and `FAILED`: the named bits of a configuration CSR are stored, a write to
`ERR` acknowledges in `FAILED` and does nothing in `READY`, every other write is ignored. -/
def State.setCsr (s : State) (a : Nat) (v : Word) : State :=
  match a with
  | 1 => if s.run = .failed then s.acknowledge else s
  | 4 => { s with fmtMask := v &&& fmtMaskBits }
  | 5 => { s with imgW := v &&& imgSideBits }
  | 6 => { s with imgH := v &&& imgSideBits }
  | 7 => { s with imgFmt := v &&& imgFmtBits }
  | 8 => { s with thrCfg := v &&& thrCfgBits }
  | _ => s

end Sys2Proof.Machine
end

