-- ==== Sys2Proof/Machine/Operands.lean ====
section
/-!
DEFINITION. The operand forms of the commands (spec/20_memory.md R66, spec/40_gf.md R104, spec/42_bch.md R153, R158,
spec/44_threshold.md R191).

A command reads a register as a field element, a whole unsigned word, a buffer address or length, a 15-bit format word
or an 18-bit version word, and reads the CSRs it uses as numbers.
-/

namespace Sys2Proof.Machine

/-- A field element operand: `r[i][7:0]`, bits 31:8 ignored (R104). -/
def State.elem (s : State) (i : Reg) : Byte := (s.reg i).setWidth 8

/-- An exponent, length or base-address operand: the whole register, unsigned (R104, R51, R177). -/
def State.num (s : State) (i : Reg) : Nat := (s.reg i).toNat

/-- A format-word operand: `r[i][14:0]` (R153). -/
def State.fmtWord (s : State) (i : Reg) : BitVec 15 := (s.reg i).setWidth 15

/-- A version-word operand: `r[i][17:0]` (R158). -/
def State.verWord (s : State) (i : Reg) : BitVec 18 := (s.reg i).setWidth 18

/-- Write a field element zero-extended (R104). -/
def State.setElem (s : State) (i : Reg) (v : Byte) : State := s.setReg i (v.setWidth 32)

/-- `FMTMASK[14:0]` (R38). -/
def State.mask15 (s : State) : BitVec 15 := s.fmtMask.setWidth 15

/-- `W = IMGW[15:0]` (R39). -/
def State.width (s : State) : Nat := slice s.imgW 15 0

/-- `H = IMGH[15:0]` (R40). -/
def State.height (s : State) : Nat := slice s.imgH 15 0

/-- `IMGFMT[1:0]` (R41). -/
def State.pixFmt (s : State) : Nat := slice s.imgFmt 1 0

/-- `TLOG = THRCFG[3:0]` (R42). -/
def State.tlog (s : State) : Nat := slice s.thrCfg 3 0

/-- `WRAD = THRCFG[6:4]` (R42). -/
def State.wrad (s : State) : Nat := slice s.thrCfg 6 4

/-- `STAT = THRCFG[8]`: 0 = mean, 1 = median (R42). -/
def State.median (s : State) : Bool := slice s.thrCfg 8 8 == 1

/-- Bytes per pixel of `IMGFMT = 0, 1, 2` (R31, R191). -/
def bytesPerPixel (fmt : Nat) : Nat :=
  match fmt with
  | 0 => 1
  | 1 => 3
  | _ => 4

end Sys2Proof.Machine
end

