-- ==== Sys2Proof/Machine/Bch.lean ====
section
/-!
DEFINITION. The BCH unit: `BCHFMT`, `BCHVER` (spec/42_bch.md R150 to R160).
-/

namespace Sys2Proof.Machine

/-- The number of 1 bits of a word (R8). -/
def popcount {w : Nat} (v : BitVec w) : Nat := (List.range w).countP (fun i => v.getLsbD i)

/-- The remainder of a 15-bit word by the generator `0x537` (R150). -/
def rem15 (v : BitVec 15) : BitVec 10 :=
  ([14, 13, 12, 11, 10].foldl (fun v i => if v.getLsbD i then v ^^^ (0x537#15 <<< (i - 10)) else v) v).setWidth 10

/-- The format codeword of a 5-bit value (R150). -/
def fmtCw (d : BitVec 5) : BitVec 15 := (d.setWidth 15 <<< 10) ||| (rem15 (d.setWidth 15 <<< 10)).setWidth 15

/-- The value whose codeword is within 3 bits, none for "uncorrectable" (R152). -/
def fmtCorrect (u : BitVec 15) : Option (BitVec 5) :=
  ((List.range 32).map (BitVec.ofNat 5)).find? (fun d => decide (popcount (u ^^^ fmtCw d) ≤ 3))

/-- The remainder of an 18-bit word by the generator `0x1F25` (R156). -/
def rem18 (v : BitVec 18) : BitVec 12 :=
  ([17, 16, 15, 14, 13, 12].foldl (fun v i => if v.getLsbD i then v ^^^ (0x1F25#18 <<< (i - 12)) else v) v).setWidth 12

/-- The version codeword of a 6-bit value (R156). -/
def verCw (v : BitVec 6) : BitVec 18 := (v.setWidth 18 <<< 12) ||| (rem18 (v.setWidth 18 <<< 12)).setWidth 18

/-- The value whose codeword is within 3 bits, none for "uncorrectable" (R157). -/
def verCorrect (u : BitVec 18) : Option (BitVec 6) :=
  ((List.range 64).map (BitVec.ofNat 6)).find? (fun v => decide (popcount (u ^^^ verCw v) ≤ 3))

/-- The ECC level ordinal of the two indicator bits (R154). -/
def eclOfIndicator (i : BitVec 2) : BitVec 2 := i ^^^ 0b01#2

/-- What `BCHFMT` writes for the corrected value `d`: `{ ecl(d[4:3]), 000, d[4:0] }` (R153). -/
def fmtResult (d : BitVec 5) : Word := (eclOfIndicator (d.extractLsb' 3 2) ++ 0b000#3 ++ d).setWidth 32

/-- Both copies corrected independently and required to agree (R153). -/
def fmtAgree (u1 u2 : BitVec 15) : Option (BitVec 5) :=
  match fmtCorrect u1, fmtCorrect u2 with
  | some d1, some d2 => if d1 = d2 then some d1 else none
  | _, _ => none

/-- `BCHFMT rd, ra, rb` (R153). -/
def execBchfmt (rd ra rb : Reg) (s : State) : Result :=
  match fmtAgree (s.fmtWord ra ^^^ s.mask15) (s.fmtWord rb ^^^ s.mask15) with
  | none => s.fail (.bchfmt rd ra rb) .formatInfoUnrecoverable
  | some d => .next (s.setReg rd (fmtResult d))

/-- The corrected version, if it is one that carries version information, 7..40 (R158). -/
def verLegal (u : BitVec 18) : Option (BitVec 6) :=
  match verCorrect u with
  | some v => if 7 ≤ v.toNat ∧ v.toNat ≤ 40 then some v else none
  | none => none

/-- `BCHVER rd, ra` (R158). -/
def execBchver (rd ra : Reg) (s : State) : Result :=
  match verLegal (s.verWord ra) with
  | none => s.fail (.bchver rd ra) .versionInfoUnrecoverable
  | some v => .next (s.setReg rd (v.setWidth 32))

end Sys2Proof.Machine
end

