-- ==== Sys2Proof/Machine/Field.lean ====
section
/-!
DEFINITION. GF(2^8) modulo `0x11d` and the table generator (spec/40_gf.md R90 to R94).
-/

namespace Sys2Proof.Machine

/-- The product of two polynomials over GF(2) before reduction (R92, first loop). -/
def clmul (a b : Byte) : BitVec 15 :=
  [0, 1, 2, 3, 4, 5, 6, 7].foldl (fun p i => if b.getLsbD i then p ^^^ (a.setWidth 15 <<< i) else p) 0

/-- Reduction modulo the primitive polynomial `0x11d` (R90; R92, second loop). -/
def reduce (p : BitVec 15) : Byte :=
  ([14, 13, 12, 11, 10, 9, 8].foldl (fun p i => if p.getLsbD i then p ^^^ (0x11d#15 <<< (i - 8)) else p) p).setWidth 8

/-- The modular multiplier (R92). -/
def gmul (a b : Byte) : Byte := reduce (clmul a b)

/-- Multiplication by `alpha = 0x02` (R91, R93). -/
def xtime (a : Byte) : Byte :=
  let t : BitVec 9 := a.setWidth 9 <<< 1
  (if t.getLsbD 8 then t ^^^ 0x11d#9 else t).setWidth 8

/-- `alpha^i` (R11, R94). -/
def alphaPow : Nat → Byte
  | 0 => 1
  | i + 1 => xtime (alphaPow i)

/-- `a` multiplied by itself `e` times (R100). -/
def gpow (a : Byte) : Nat → Byte
  | 0 => 1
  | e + 1 => gmul (gpow a e) a

/-- The multiplicative inverse of a non-zero element (R99), as `a^254 = a^2 a^4 a^8 a^16 a^32 a^64 a^128` (R103);
`ginv 0 = 0`, which no rule uses. -/
def ginv (a : Byte) : Byte :=
  let a2 := gmul a a
  let a4 := gmul a2 a2
  let a8 := gmul a4 a4
  let a16 := gmul a8 a8
  let a32 := gmul a16 a16
  let a64 := gmul a32 a32
  let a128 := gmul a64 a64
  gmul a2 (gmul a4 (gmul a8 (gmul a16 (gmul a32 (gmul a64 a128)))))

/-- Division by a non-zero element (R98). -/
def gdiv (a b : Byte) : Byte := gmul a (ginv b)

/-! ## The table generator (R94) -/

/-- The successive powers `v, v*alpha, v*alpha^2, ...`: the values `v` takes in R94's loop. -/
def powersFrom : Nat → Byte → List Byte
  | 0, _ => []
  | n + 1, v => v :: powersFrom n (xtime v)

/-- There are as many powers as asked for. -/
theorem powersFrom_length (n : Nat) (v : Byte) : (powersFrom n v).length = n := by
  induction n generalizing v with
  | zero => rfl
  | succ n ih => simp [powersFrom, ih]

/-- `EXP` as the generator leaves it: entry `i` is the value of `v` in round `i`, and `EXP[255]` the last `v` (R94). -/
def genExp : Vector Byte 256 := ⟨(powersFrom 256 1).toArray, by simp [powersFrom_length]⟩

/-- `LOG` as the generator leaves it: `LOG[a]` is the round `i` in 0..254 whose `v` was `a` (R94). -/
def genLog : Vector Byte 255 :=
  ⟨((List.range 255).map (fun j => BitVec.ofNat 8 ((powersFrom 255 1).idxOf (BitVec.ofNat 8 (j + 1))))).toArray,
    by simp⟩

/-- R94's loop as it is printed, from round `i` with `rounds` to go: `EXP[i] <- v; LOG[v] <- i; v <- xtime(v)`, and
`EXP[255] <- v` at the end.  `genExp` and `genLog` are what it leaves (DEDUCED, log entry 9; an obligation says so). -/
def generatorLoop : Nat → Nat → Byte → Vector Byte 256 → Vector Byte 255 → Vector Byte 256 × Vector Byte 255
  | 0, _, v, ex, lg => (ex.setIfInBounds 255 v, lg)
  | rounds + 1, i, v, ex, lg =>
    generatorLoop rounds (i + 1) (xtime v) (ex.setIfInBounds i v) (lg.setIfInBounds (v.toNat - 1) (BitVec.ofNat 8 i))

end Sys2Proof.Machine
end

