-- ==== Sys2Proof/Machine/Gf.lean ====
section
/-!
DEFINITION. The GF unit: `GFINIT`, `GFADD`, `GFMUL`, `GFDIV`, `GFINV`, `GFPOW`, `GFEXP`, `GFLOG` (spec/40_gf.md R95 to
R102, R104 to R106).
-/

namespace Sys2Proof.Machine

/-- `GFINIT` (R95): the first one generates the tables, a later one changes nothing. -/
def execGfinit (s : State) : Result :=
  if s.tblRdy then .next s else .next { s with exp := genExp, log := genLog, tblRdy := true }

/-- `GFADD rd, ra, rb` (R96): needs no tables. -/
def execGfadd (rd ra rb : Reg) (s : State) : Result := .next (s.setElem rd (s.elem ra ^^^ s.elem rb))

/-- The product through the tables (R97). -/
def State.tableMul (s : State) (a b : Byte) : Byte :=
  if a = 0 ∨ b = 0 then 0 else s.expAt (s.logAt a + s.logAt b)

/-- `GFMUL rd, ra, rb` (R97). -/
def execGfmul (rd ra rb : Reg) (s : State) : Result :=
  if !s.tblRdy then s.defect (.gfmul rd ra rb) .tablesNotReady 0
  else .next (s.setElem rd (s.tableMul (s.elem ra) (s.elem rb)))

/-- The quotient through the tables, for `b ≠ 0` (R98). -/
def State.tableDiv (s : State) (a b : Byte) : Byte :=
  if a = 0 then 0 else s.expAt ((s.logAt a : Int) - s.logAt b)

/-- `GFDIV rd, ra, rb` (R98). -/
def execGfdiv (rd ra rb : Reg) (s : State) : Result :=
  if !s.tblRdy then s.defect (.gfdiv rd ra rb) .tablesNotReady 0
  else if s.elem rb = 0 then s.defect (.gfdiv rd ra rb) .gfZeroOperand 0
  else .next (s.setElem rd (s.tableDiv (s.elem ra) (s.elem rb)))

/-- `GFINV rd, ra` (R99). -/
def execGfinv (rd ra : Reg) (s : State) : Result :=
  if !s.tblRdy then s.defect (.gfinv rd ra) .tablesNotReady 0
  else if s.elem ra = 0 then s.defect (.gfinv rd ra) .gfZeroOperand 0
  else .next (s.setElem rd (s.expAt (255 - (s.logAt (s.elem ra) : Int))))

/-- The power through the tables; the exponent is an unbounded product before the reduction (R100). -/
def State.tablePow (s : State) (a : Byte) (e : Nat) : Byte :=
  if e = 0 then 1 else if a = 0 then 0 else s.expAt (s.logAt a * e)

/-- `GFPOW rd, ra, rb` (R100). -/
def execGfpow (rd ra rb : Reg) (s : State) : Result :=
  if !s.tblRdy then s.defect (.gfpow rd ra rb) .tablesNotReady 0
  else .next (s.setElem rd (s.tablePow (s.elem ra) (s.num rb)))

/-- `GFEXP rd, ra` (R101). -/
def execGfexp (rd ra : Reg) (s : State) : Result :=
  if !s.tblRdy then s.defect (.gfexp rd ra) .tablesNotReady 0
  else .next (s.setElem rd (s.expAt (s.num ra)))

/-- `GFLOG rd, ra` (R102). -/
def execGflog (rd ra : Reg) (s : State) : Result :=
  if !s.tblRdy then s.defect (.gflog rd ra) .tablesNotReady 0
  else if s.elem ra = 0 then s.defect (.gflog rd ra) .gfZeroOperand 0
  else .next (s.setReg rd (BitVec.ofNat 32 (s.logAt (s.elem ra))))

end Sys2Proof.Machine
end

