-- ==== Sys2Proof/Machine/Interleave.lean ====
section
/-!
DEFINITION. The interleave unit: `BLKINFO`, `DEINTL`, `INTL` (spec/43_interleave.md R170 to R181).
-/

namespace Sys2Proof.Machine

/-! ## The block table and what follows from an entry -/

/-- `BLKTAB(ver, ecl)` (R29, R171). -/
def State.blkWord (s : State) (ver : Nat) (lvl : EccLevel) : Word := s.blkTab.getD (4 * (ver - 1) + lvl.ord) 0

/-- The fields of a `BLKTAB` word (R170, R171). -/
structure BlkEntry where
  /-- `E`, ECC words of every block -/
  ecc : Nat
  /-- number of short blocks -/
  g1n : Nat
  /-- data codewords of a short block -/
  g1k : Nat
  /-- number of long blocks -/
  g2n : Nat
deriving DecidableEq, Repr

/-- Unpack a `BLKTAB` word (R171). -/
def BlkEntry.ofWord (w : Word) : BlkEntry :=
  { ecc := slice w 7 0, g1n := slice w 15 8, g1k := slice w 23 16, g2n := slice w 31 24 }

/-- `B = g1n + g2n` (R173). -/
def BlkEntry.blocks (e : BlkEntry) : Nat := e.g1n + e.g2n

/-- `dlen[b]` (R173). -/
def BlkEntry.dlen (e : BlkEntry) (b : Nat) : Nat := if b < e.g1n then e.g1k else e.g1k + 1

/-- `nlen[b]` (R173). -/
def BlkEntry.nlen (e : BlkEntry) (b : Nat) : Nat := e.dlen b + e.ecc

/-- `offs[b]` (R173). -/
def BlkEntry.offs (e : BlkEntry) : Nat → Nat
  | 0 => 0
  | b + 1 => e.offs b + e.nlen b

/-- `T = offs[B]` (R173). -/
def BlkEntry.total (e : BlkEntry) : Nat := e.offs e.blocks

/-- `maxd` (R173). -/
def BlkEntry.maxd (e : BlkEntry) : Nat := if 0 < e.g2n then e.g1k + 1 else e.g1k

/-- `map[p]` for `p = 0, 1, ...`: the data rounds over the blocks, then the ECC rounds (R175). -/
def BlkEntry.streamMap (e : BlkEntry) : List Nat :=
  (List.range e.maxd).flatMap (fun i =>
    ((List.range e.blocks).filter (fun b => i < e.dlen b)).map (fun b => e.offs b + i)) ++
  (List.range e.ecc).flatMap (fun i => (List.range e.blocks).map (fun b => e.offs b + e.dlen b + i))

/-- The total codewords of a version (R181). -/
def totalCodewords (ver : Nat) : Nat :=
  let r := (16 * ver + 128) * ver + 64
  let na := ver / 7 + 2
  let r := if 2 ≤ ver then r - ((25 * na - 10) * na - 55) else r
  (if 7 ≤ ver then r - 36 else r) / 8

/-- The condition every entry of `BLKTAB` satisfies (R172), for the entry of one version. -/
def BlkEntry.wf (e : BlkEntry) (ver : Nat) : Bool :=
  decide (1 ≤ e.ecc) && decide (1 ≤ e.g1n) && decide (1 ≤ e.g1k) && decide (e.g1k + 1 + e.ecc ≤ 255) &&
  decide (e.g1n * (e.g1k + e.ecc) + e.g2n * (e.g1k + 1 + e.ecc) = totalCodewords ver) &&
  decide (totalCodewords ver ≤ 3706)

/-- R172 for a whole table: 160 words, every entry well formed. -/
def blkTabWf (t : List Word) : Bool :=
  decide (t.length = 160) &&
  (List.range 160).all (fun j => (BlkEntry.ofWord (t.getD j 0)).wf (j / 4 + 1))

/-! ## The commands -/

/-- The version immediate is a version, 1..40 (R176). -/
def verInRange (ver : Nat) : Bool := decide (1 ≤ ver) && decide (ver ≤ 40)

/-- `BLKINFO rd, ver, lvl` (R176). -/
def execBlkinfo (rd : Reg) (ver : Nat) (lvl : EccLevel) (s : State) : Result :=
  if !verInRange ver then s.fail (.blkinfo rd ver lvl) .invalidInput
  else .next (s.setReg rd (s.blkWord ver lvl))

/-- The entry `DEINTL` and `INTL` work with (R173). -/
def State.blkEntry (s : State) (ver : Nat) (lvl : EccLevel) : BlkEntry := BlkEntry.ofWord (s.blkWord ver lvl)

/-- `DEINTL rl, [ra], [rb], ver, lvl` (R177): stream byte `p` goes to offset `map[p]` of the block area. -/
def execDeintl (rl ra rb : Reg) (ver : Nat) (lvl : EccLevel) (s : State) : Result :=
  if !verInRange ver then s.fail (.deintl rl ra rb ver lvl) .invalidInput
  else if s.num rl ≠ (s.blkEntry ver lvl).total then s.fail (.deintl rl ra rb ver lvl) .invalidInput
  else if !s.inBounds (s.num ra) (s.num rl) then s.defect (.deintl rl ra rb ver lvl) .indexOutOfBounds (s.reg ra)
  else if !s.inBounds (s.num rb) (s.num rl) then s.defect (.deintl rl ra rb ver lvl) .indexOutOfBounds (s.reg rb)
  else if overlap (s.num ra) (s.num rl) (s.num rb) (s.num rl) then s.fail (.deintl rl ra rb ver lvl) .invalidInput
  else
    .next (s.setCells (List.zip ((s.blkEntry ver lvl).streamMap.map (s.num rb + ·)) (s.bytesAt (s.num ra) (s.num rl))))

/-- `INTL rl, [ra], [rb], ver, lvl` (R178): stream byte `p` is the byte at offset `map[p]` of the block area. -/
def execIntl (rl ra rb : Reg) (ver : Nat) (lvl : EccLevel) (s : State) : Result :=
  if !verInRange ver then s.fail (.intl rl ra rb ver lvl) .invalidInput
  else if s.num rl ≠ (s.blkEntry ver lvl).total then s.fail (.intl rl ra rb ver lvl) .invalidInput
  else if !s.inBounds (s.num ra) (s.num rl) then s.defect (.intl rl ra rb ver lvl) .indexOutOfBounds (s.reg ra)
  else if !s.inBounds (s.num rb) (s.num rl) then s.defect (.intl rl ra rb ver lvl) .indexOutOfBounds (s.reg rb)
  else if overlap (s.num ra) (s.num rl) (s.num rb) (s.num rl) then s.fail (.intl rl ra rb ver lvl) .invalidInput
  else .next (s.setBytes (s.num rb) ((s.blkEntry ver lvl).streamMap.map (fun q => s.byteAt (s.num ra + q))))

end Sys2Proof.Machine
end

