-- ==== Sys2Proof/Machine/RsCode.lean ====
section
/-!
DEFINITION. The Reed-Solomon code of the RS unit: syndromes, encoder, decoder (spec/41_rs.md R120 to R135).

A block is a list of bytes, the first byte the coefficient of the highest degree (R120).  Every other polynomial here is
a list indexed by degree (R133).  The field functions are the pure ones of `Sys2Proof/Machine/Field.lean`: with
`TBLRDY = 1` the tables compute the same (R97, R103, U3; DEDUCED, log entry 8).
-/

namespace Sys2Proof.Machine

/-! ## Polynomials, indexed by degree -/

/-- Sum. -/
def polyAdd : List Byte → List Byte → List Byte
  | [], q => q
  | p, [] => p
  | a :: p, b :: q => (a ^^^ b) :: polyAdd p q

/-- Product with a constant. -/
def polyScale (c : Byte) (p : List Byte) : List Byte := p.map (gmul c)

/-- Product. -/
def polyMul : List Byte → List Byte → List Byte
  | [], _ => []
  | a :: p, q => polyAdd (polyScale a q) (0 :: polyMul p q)

/-- Value at `x`. -/
def polyEval (p : List Byte) (x : Byte) : Byte := p.foldr (fun c y => gmul y x ^^^ c) 0

/-- Degree, zero coefficients at the top not counted; 0 for the zero polynomial. -/
def polyDegree (p : List Byte) : Nat := (p.reverse.dropWhile (· == 0)).length - 1

/-- Formal derivative: the coefficient of `x^(i-1)` is `p[i]` for odd `i`, 0 for even `i` (R133 step 4). -/
def polyDeriv (p : List Byte) : List Byte := (p.zipIdx.drop 1).map (fun c => if c.2 % 2 = 1 then c.1 else 0)

/-! ## The code -/

/-- `S_i = C(alpha^i)` by Horner's rule (R122). -/
def syndrome (c : List Byte) (i : Nat) : Byte := c.foldl (fun y b => gmul y (alphaPow i) ^^^ b) 0

/-- `S_0, ..., S_(k-1)` (R122). -/
def syndromes (c : List Byte) (k : Nat) : List Byte := (List.range k).map (syndrome c)

/-- The block is a codeword of the code with `k` ECC words: all `k` syndromes are 0 (R124). -/
def isCodeword (c : List Byte) (k : Nat) : Bool := (syndromes c k).all (· == 0)

/-- The generator polynomial `g_k(x) = (x + alpha^0) ... (x + alpha^(k-1))`, indexed by degree (R123). -/
def genPoly : Nat → List Byte
  | 0 => [1]
  | k + 1 => polyAdd (0 :: genPoly k) (polyScale (alphaPow k) (genPoly k))

/-! ## The encoder (R125, R126) -/

/-- One round of R126's shift register: `gHigh[i]` is `g[k-1-i]`. -/
def encodeStep (gHigh rem : List Byte) (d : Byte) : List Byte :=
  let f := d ^^^ rem.headD 0
  List.zipWith (· ^^^ ·) (rem.drop 1 ++ [0]) (polyScale f gHigh)

/-- The `k` ECC bytes of the data bytes `d`: the remainder of `D(x) x^k` by `g_k`, highest degree first (R125, R126). -/
def rsEncode (d : List Byte) (k : Nat) : List Byte :=
  d.foldl (encodeStep ((genPoly k).take k).reverse) (List.replicate k 0)

/-! ## The decoder (R133) -/

/-- The variables of R133's step 2. -/
structure BmState where
  /-- `Lam` -/
  lam : List Byte
  /-- `B` -/
  prev : List Byte
  /-- `L` -/
  len : Nat
  /-- `mm` -/
  shift : Nat
  /-- `b` -/
  disc : Byte
deriving DecidableEq, Repr

/-- `d = S[rr] xor (xor over i = 1..L of gmul(Lam[i], S[rr-i]))` (R133 step 2). -/
def discrepancy (syn : List Byte) (st : BmState) (rr : Nat) : Byte :=
  (List.range st.len).foldl (fun d i => d ^^^ gmul (st.lam.getD (i + 1) 0) (syn.getD (rr - (i + 1)) 0)) (syn.getD rr 0)

/-- One round of R133's step 2. -/
def bmStep (syn : List Byte) (st : BmState) (rr : Nat) : BmState :=
  let d := discrepancy syn st rr
  if d = 0 then { st with shift := st.shift + 1 }
  else
    let lam' := polyAdd st.lam (List.replicate st.shift 0 ++ polyScale (gdiv d st.disc) st.prev)
    if 2 * st.len ≤ rr then { lam := lam', prev := st.lam, len := rr + 1 - st.len, shift := 1, disc := d }
    else { st with lam := lam', shift := st.shift + 1 }

/-- Berlekamp-Massey over all the syndromes (R133 step 2). -/
def berlekampMassey (syn : List Byte) : BmState :=
  (List.range syn.length).foldl (bmStep syn) { lam := [1], prev := [1], len := 0, shift := 1, disc := 1 }

/-- Chien search: the positions `j` of a block of `n` bytes with `Lam(alpha^(-(n-1-j))) = 0` (R133 step 3, R134). -/
def chien (lam : List Byte) (n : Nat) : List Nat :=
  (List.range n).filter (fun j => polyEval lam (alphaPow ((255 - (n - 1 - j)) % 255)) == 0)

/-- Forney: the error value at the position of degree `e`, none where R133's step 4 gives up. -/
def forney (lam om : List Byte) (e : Nat) : Option Byte :=
  let xi := ginv (alphaPow e)
  let den := polyEval (polyDeriv lam) xi
  if den = 0 then none
  else
    let v := gmul (alphaPow e) (gdiv (polyEval om xi) den)
    if v = 0 then none else some v

/-- Correct the bytes at the positions found (R133 step 4). -/
def correctAt (lam om : List Byte) (n : Nat) : List Nat → List Byte → Option (List Byte)
  | [], c => some c
  | j :: js, c =>
    match forney lam om (n - 1 - j) with
    | none => none
    | some v => correctAt lam om n js (c.modify j (· ^^^ v))

/-- The corrected block, none for "unrecoverable" (R133; R127 says what it must be: DEDUCED, log entry 7). -/
def rsDecode (c : List Byte) (k : Nat) : Option (List Byte) :=
  let syn := syndromes c k
  if syn.all (· == 0) then some c
  else
    let bm := berlekampMassey syn
    let pos := chien bm.lam c.length
    if k / 2 < bm.len ∨ polyDegree bm.lam ≠ bm.len ∨ pos.length ≠ bm.len then none
    else
      match correctAt bm.lam ((polyMul syn bm.lam).take k) c.length pos c with
      | none => none
      | some c' => if isCodeword c' k then some c' else none

/-- The (position, new byte) pairs where two blocks differ, positions counted from `j`. -/
def diffFrom : Nat → List Byte → List Byte → List (Nat × Byte)
  | j, a :: c, b :: c' => if a = b then diffFrom (j + 1) c c' else (j, b) :: diffFrom (j + 1) c c'
  | _, _, _ => []

end Sys2Proof.Machine
end

