-- ==== Sys2Proof/Machine/Rs.lean ====
section
/-!
DEFINITION. The RS unit: `RSENC`, `RSDEC` (spec/41_rs.md R121, R125, R127, R130, R136).
-/

namespace Sys2Proof.Machine

/-- The parameters are legal: `1 <= k` and `k < n` (R121). -/
def rsLegal (n k : Nat) : Bool := decide (1 ≤ k) && decide (k < n)

/-- `RSENC [ra], n, k` (R125): the `k` ECC bytes behind the `n - k` data bytes. -/
def execRsenc (ra : Reg) (n k : Nat) (s : State) : Result :=
  if !s.tblRdy then s.defect (.rsenc ra n k) .tablesNotReady 0
  else if !rsLegal n k then s.fail (.rsenc ra n k) .invalidInput
  else if !s.inBounds (s.num ra) n then s.defect (.rsenc ra n k) .indexOutOfBounds (s.reg ra)
  else .next (s.setBytes (s.num ra + (n - k)) (rsEncode (s.bytesAt (s.num ra) (n - k)) k))

/-- `RSDEC rd, [ra], n, k` (R127): only the differing bytes change, `rd` receives their number; an unrecoverable block
changes nothing but the error registers (R130). -/
def execRsdec (rd ra : Reg) (n k : Nat) (s : State) : Result :=
  if !s.tblRdy then s.defect (.rsdec rd ra n k) .tablesNotReady 0
  else if !rsLegal n k then s.fail (.rsdec rd ra n k) .invalidInput
  else if !s.inBounds (s.num ra) n then s.defect (.rsdec rd ra n k) .indexOutOfBounds (s.reg ra)
  else
    match rsDecode (s.bytesAt (s.num ra) n) k with
    | none => s.fail (.rsdec rd ra n k) .reedSolomonUnrecoverable
    | some c' =>
      .next ((s.setCells (diffFrom (s.num ra) (s.bytesAt (s.num ra) n) c')).setReg rd
        (BitVec.ofNat 32 (diffFrom (s.num ra) (s.bytesAt (s.num ra) n) c').length))

end Sys2Proof.Machine
end

