-- ==== Sys2Proof/Machine/Threshold.lean ====
section
/-!
DEFINITION. The threshold unit: `THRESH` (spec/44_threshold.md R190 to R202).
-/

namespace Sys2Proof.Machine

/-! ## The image as gray values (R192, R194) -/

/-- The gray value of the pixel whose first byte is at `a`; the alpha byte of an RGBA pixel is ignored (R194). -/
def State.gray (s : State) (fmt a : Nat) : Nat :=
  if fmt = 0 then (s.byteAt a).toNat
  else ((s.byteAt a).toNat + 2 * (s.byteAt (a + 1)).toNat + (s.byteAt (a + 2)).toNat) / 4

/-- The rows of gray values, row 0 first, pixel 0 of a row first (R192). -/
def State.grayRows (s : State) (src w h fmt : Nat) : List (List Nat) :=
  (List.range h).map (fun y =>
    (List.range w).map (fun x => s.gray fmt (src + (y * w + x) * bytesPerPixel fmt)))

/-! ## Histogram and statistic (R195 to R197) -/

/-- The gray values of the window of tile `(tx, ty)`, clipped to the image (R196, its second form; DEDUCED, log entry
17). -/
def window (rows : List (List Nat)) (tlog wrad tx ty : Nat) : List Nat :=
  let first (t : Nat) := (t - wrad) * 2 ^ tlog
  let past (t : Nat) := (t + wrad + 1) * 2 ^ tlog
  ((rows.take (past ty)).drop (first ty)).flatMap (fun row => (row.take (past tx)).drop (first tx))

/-- `hist[v]` (R197). -/
def hist (px : List Nat) (v : Nat) : Nat := px.count v

/-- The mean: `floor((sum over v of v * hist[v]) / N)` (R197). -/
def meanOf (px : List Nat) : Nat := ((List.range 256).map (fun v => v * hist px v)).sum / px.length

/-- `hist[0] + ... + hist[v]` (R197). -/
def cumulative (px : List Nat) (v : Nat) : Nat := ((List.range (v + 1)).map (hist px)).sum

/-- The lower median: the smallest `v` with `2 * (hist[0] + ... + hist[v]) >= N` (R197). -/
def medianOf (px : List Nat) : Nat :=
  ((List.range 256).find? (fun v => decide (px.length ≤ 2 * cumulative px v))).getD 0

/-- `base(tx, ty)` (R197). -/
def tileBase (rows : List (List Nat)) (tlog wrad : Nat) (median : Bool) (tx ty : Nat) : Nat :=
  if median then medianOf (window rows tlog wrad tx ty) else meanOf (window rows tlog wrad tx ty)

/-- The bases of all tiles, tile row 0 first (R195). -/
def tileBases (rows : List (List Nat)) (w h tlog wrad : Nat) (median : Bool) : List (List Nat) :=
  (List.range ((h - 1) / 2 ^ tlog + 1)).map (fun ty =>
    (List.range ((w - 1) / 2 ^ tlog + 1)).map (fun tx => tileBase rows tlog wrad median tx ty))

/-! ## Compare and polarity (R198, R199) -/

/-- Entry `(x, y)` of a list of rows. -/
def entry (rows : List (List Nat)) (x y : Nat) : Nat := (rows.getD y []).getD x 0

/-- The bitmap byte of a pixel: `dark xor inv`, dark iff `g < base + off` as integers (R198, R199). -/
def bitmapByte (g base : Nat) (off : Int) (inv : Bool) : Byte :=
  if (decide ((g : Int) < (base : Int) + off)) != inv then 0x01 else 0x00

/-- The bitmap, row-major (R33, R191). -/
def bitmap (rows : List (List Nat)) (w h tlog wrad : Nat) (median : Bool) (off : Int) (inv : Bool) : List Byte :=
  let bases := tileBases rows w h tlog wrad median
  (List.range h).flatMap (fun y =>
    (List.range w).map (fun x => bitmapByte (entry rows x y) (entry bases (x / 2 ^ tlog) (y / 2 ^ tlog)) off inv))

/-- What `THRESH` computes from the image bytes and the configuration (R190, R191). -/
def State.bitmapOf (s : State) (src : Nat) (off : Int) (inv : Bool) : List Byte :=
  bitmap (s.grayRows src s.width s.height s.pixFmt) s.width s.height s.tlog s.wrad s.median off inv

/-! ## The command -/

/-- `THRESH [ra], [rb], off, inv` (R191, checks of R193 first). -/
def execThresh (ra rb : Reg) (off : Int) (inv : Bool) (s : State) : Result :=
  if s.pixFmt = 3 ∨ s.width = 0 ∨ s.height = 0 then s.fail (.thresh ra rb off inv) .invalidInput
  else if s.width < 21 ∨ s.height < 21 then s.fail (.thresh ra rb off inv) .imageTooSmall
  else if !s.inBounds (s.num ra) (s.width * s.height * bytesPerPixel s.pixFmt) then
    s.defect (.thresh ra rb off inv) .indexOutOfBounds (s.reg ra)
  else if !s.inBounds (s.num rb) (s.width * s.height) then
    s.defect (.thresh ra rb off inv) .indexOutOfBounds (s.reg rb)
  else if overlap (s.num ra) (s.width * s.height * bytesPerPixel s.pixFmt) (s.num rb) (s.width * s.height) then
    s.fail (.thresh ra rb off inv) .invalidInput
  else .next (s.setBytes (s.num rb) (s.bitmapOf (s.num ra) off inv))

end Sys2Proof.Machine
end

