-- ==== Sys2Proof/Machine/Dispatch.lean ====
section
/-!
DEFINITION. One arm per command: executing a decoded command in `STATE = READY` (spec/60_exceptions.md R233).
-/

namespace Sys2Proof.Machine

/-- The effect of a decoded command (R77), run to completion, to a typed failure or to a fatal defect. -/
def exec (i : Instr) (s : State) : Host.Outcome State Fault Refusal :=
  match i with
  | .gfinit => Sys2Proof.Machine.execGfinit s
  | .gfadd rd ra rb => Sys2Proof.Machine.execGfadd rd ra rb s
  | .gfmul rd ra rb => Sys2Proof.Machine.execGfmul rd ra rb s
  | .gfdiv rd ra rb => Sys2Proof.Machine.execGfdiv rd ra rb s
  | .gfinv rd ra => Sys2Proof.Machine.execGfinv rd ra s
  | .gfpow rd ra rb => Sys2Proof.Machine.execGfpow rd ra rb s
  | .gfexp rd ra => Sys2Proof.Machine.execGfexp rd ra s
  | .gflog rd ra => Sys2Proof.Machine.execGflog rd ra s
  | .rsenc ra n k => Sys2Proof.Machine.execRsenc ra n k s
  | .rsdec rd ra n k => Sys2Proof.Machine.execRsdec rd ra n k s
  | .bchfmt rd ra rb => Sys2Proof.Machine.execBchfmt rd ra rb s
  | .bchver rd ra => Sys2Proof.Machine.execBchver rd ra s
  | .blkinfo rd ver lvl => Sys2Proof.Machine.execBlkinfo rd ver lvl s
  | .deintl rl ra rb ver lvl => Sys2Proof.Machine.execDeintl rl ra rb ver lvl s
  | .intl rl ra rb ver lvl => Sys2Proof.Machine.execIntl rl ra rb ver lvl s
  | .thresh ra rb off inv => Sys2Proof.Machine.execThresh ra rb off inv s

end Sys2Proof.Machine
end

