-- ==== Sys2Proof/Machine/Port.lean ====
section
/-!
DEFINITION. The host port: what each of the eight transactions does (spec/60_exceptions.md R218 to R221, R232 to R237).

Values and addresses are unbounded numbers of which a rule uses the low bits (DEDUCED, log entry 16).  A state given to
these operations already has the transaction taken off the port and the reply cleared.
-/

namespace Sys2Proof.Machine

/-- `Reset()` from any `STATE` (R237, R250 to R252): the reset values of R46; `MEM`, the parameters of the instance and
the transactions still pending stay. -/
def State.resetTx (s : State) : State :=
  { State.reset with mem := s.mem, memBytes := s.memBytes, blkTab := s.blkTab, port := s.port, reply := s.reply }

/-- A word that is no command ends with `fatal IllegalCommand(0)` (R78, R79). -/
def State.illegal (s : State) (w : Word) : State := s.takeError .illegalCommand w 0

/-- `Issue(w)` (R233): decoded and executed in `READY`, dropped undecoded in `FAILED` and `FATAL` (R218). -/
def State.issue (s : State) (w : Word) : Result :=
  if s.run = .ready then
    match decode w with
    | .ok i => exec i s
    | .error _ => .next (s.illegal w)
  else .next s

/-- `RegRead(i)` (R234). -/
def State.hostRegRead (s : State) (i : Reg) : State := { s with reply := .word (s.reg i) }

/-- `RegWrite(i, v)` (R234), ignored in `FATAL` (R221). -/
def State.hostRegWrite (s : State) (i : Reg) (v : Nat) : State :=
  if s.run = .fatal then s else s.setReg i (BitVec.ofNat 32 v)

/-- A host access outside `MEM` (R235): a fatal defect recorded with `ERRCMD = 0` and the address, from `READY` or
`FAILED`; in `FATAL` nothing is recorded. -/
def State.hostOutOfBounds (s : State) (a : Nat) : State :=
  if s.run = .fatal then s else s.takeError .indexOutOfBounds 0 (BitVec.ofNat 32 a)

/-- `MemRead(a)` (R235): outside `MEM` it returns 0. -/
def State.hostMemRead (s : State) (a : Nat) : State :=
  if a < s.memBytes then { s with reply := .byte (s.byteAt a) }
  else { s.hostOutOfBounds a with reply := .byte 0 }

/-- `MemWrite(a, v)` (R235), ignored in `FATAL` (R221). -/
def State.hostMemWrite (s : State) (a v : Nat) : State :=
  if a < s.memBytes then
    if s.run = .fatal then s else s.setBytes a [BitVec.ofNat 8 v]
  else s.hostOutOfBounds a

/-- `CsrRead(a)` (R236). -/
def State.hostCsrRead (s : State) (a : Nat) : State := { s with reply := .word (s.csr a) }

/-- `CsrWrite(a, v)` (R236), ignored in `FATAL` (R221). -/
def State.hostCsrWrite (s : State) (a v : Nat) : State :=
  if s.run = .fatal then s else s.setCsr a (BitVec.ofNat 32 v)

/-- One host transaction (R232). -/
def State.transact (s : State) (tx : HostTx) : Result :=
  match tx with
  | .reset => .next s.resetTx
  | .issue w => s.issue w
  | .regRead i => .next (s.hostRegRead i)
  | .regWrite i v => .next (s.hostRegWrite i v)
  | .memRead a => .next (s.hostMemRead a)
  | .memWrite a v => .next (s.hostMemWrite a v)
  | .csrRead a => .next (s.hostCsrRead a)
  | .csrWrite a v => .next (s.hostCsrWrite a v)

/-- The state with its port set to `rest` and the reply cleared: what a transaction taken from the port works on. -/
def State.taken (s : State) (rest : List HostTx) : State := { s with port := rest, reply := .nothing }

/-- The command word a table row's bits stand for: every bit above `nbits` is 0 (R70). -/
def commandWord (nbits w : Nat) : Word := BitVec.ofNat 32 (w % 2 ^ nbits)

end Sys2Proof.Machine
end

