-- ==== Sys2Proof/Machine/Step.lean ====
section
/-!
DEFINITION. One step: the next host transaction, carried out whole (spec/00_scope.md R13, spec/60_exceptions.md R232,
R233, R242).
-/

namespace Sys2Proof.Machine

/-- One step.  With no transaction pending the block is idle and keeps all state (R242). -/
def step (s : State) : Host.Outcome State Fault Refusal :=
  match s.port with
  | [] => .next s
  | tx :: rest => (s.taken rest).transact tx

/-- The state in which the host's next transaction is `Issue` of that command word (R23, R233; log entry 6): the block
does not fetch, so the next command is the one the host issues next. -/
def State.withFetchWord (s : State) (nbits w : Nat) : State :=
  { s with port := .issue (commandWord nbits w) :: s.port }

end Sys2Proof.Machine
end

