-- ==== Sys2Proof/Safety.lean ====
section
/-!
DEFINITION. The terms claims are made in: the invariant of every reachable state (spec/10_state.md R47), how a run ends
(spec/60_exceptions.md R243), and what a command may write and raise (R21, R65, R211).
-/

namespace Sys2Proof.Machine

/-! ## The invariant -/

/-- R47(a), R47(b), R36, R37: `ERR`, `ERRCMD` and `ERRAUX` agree with `STATE`. -/
structure State.ErrorOk (s : State) : Prop where
  /-- `ERR = 0` exactly when `STATE = READY` (R36, R47(a)) -/
  ready_iff : s.err = 0 ↔ s.run = .ready
  /-- in `FAILED`, `ERR` is one of the typed kinds a command raises (R47(b)) -/
  failed_kind : s.run = .failed → s.err ∈ [(4 : Word), 5, 6, 9, 10]
  /-- in `FATAL`, `ERR` is one of the fatal kinds (R47(b)) -/
  fatal_kind : s.run = .fatal → s.err ∈ [(0x80 : Word), 0x81, 0x82, 0x83]
  /-- `ERRCMD = 0` when `ERR = 0` (R37) -/
  cmd_zero : s.err = 0 → s.errCmd = 0
  /-- `ERRAUX = 0` for every kind but `IndexOutOfBounds` (R37) -/
  aux_zero : s.err ≠ 0x80 → s.errAux = 0

/-- R47(c): with `TBLRDY = 1` the tables hold exactly what the generator leaves. -/
def State.TablesOk (s : State) : Prop := s.tblRdy = true → s.exp = genExp ∧ s.log = genLog

/-- R47(d): the unnamed bits of the configuration CSRs are 0. -/
structure State.CsrOk (s : State) : Prop where
  fmtMask_bits : s.fmtMask &&& ~~~fmtMaskBits = 0
  imgW_bits : s.imgW &&& ~~~imgSideBits = 0
  imgH_bits : s.imgH &&& ~~~imgSideBits = 0
  imgFmt_bits : s.imgFmt &&& ~~~imgFmtBits = 0
  thrCfg_bits : s.thrCfg &&& ~~~thrCfgBits = 0

/-- `MEM` is in canonical form and lists no address outside `0 .. MEM_BYTES-1` (R30, R51). -/
structure State.MemOk (s : State) : Prop where
  wf : s.mem.wf
  bounded : ∀ c ∈ s.mem, c.1 < s.memBytes

/-- The parameters of the instance are legal (R6, R172). -/
structure State.ParamsOk (s : State) : Prop where
  memBytes_pos : 1 ≤ s.memBytes
  memBytes_le : s.memBytes ≤ 2 ^ 32
  blkTab_wf : blkTabWf s.blkTab = true

/-- What holds in every reachable state (R47, with the memory's form and the parameters). -/
structure State.Inv (s : State) : Prop where
  error : s.ErrorOk
  tables : s.TablesOk
  csr : s.CsrOk
  memory : s.MemOk
  params : s.ParamsOk

/-! ## Runs (R243, R250) -/

/-- The instance after power-up and `Reset()`, with the parameters of R6 and the host's whole script on the port. -/
def State.boot (memBytes : Nat) (blkTab : List Word) (script : List HostTx) : State :=
  { State.reset with memBytes := memBytes, blkTab := blkTab, port := script }

/-- A state that some run reaches (R243), for some legal parameters. -/
def Reachable (s : State) : Prop :=
  ∃ memBytes blkTab script k, (State.boot memBytes blkTab script).ParamsOk ∧
    core.run k (State.boot memBytes blkTab script) = .next s

/-- A run that ended here succeeded (R243). -/
def State.Succeeded (s : State) : Prop := s.run = .ready

/-- A run that ended here failed with `K` (R243). -/
def State.FailedWith (s : State) (k : ErrKind) : Prop := s.run = .failed ∧ s.err = k.code

/-- A run that ended here hit a defect (R243). -/
def State.HitDefect (s : State) : Prop := s.run = .fatal

/-! ## What a command may write and raise -/

/-- The one general register a command may write: its `rd` field (R21). -/
def destOf : Instr → Option Reg
  | .gfinit => none
  | .gfadd rd _ _ => some rd
  | .gfmul rd _ _ => some rd
  | .gfdiv rd _ _ => some rd
  | .gfinv rd _ => some rd
  | .gfpow rd _ _ => some rd
  | .gfexp rd _ => some rd
  | .gflog rd _ => some rd
  | .rsenc _ _ _ => none
  | .rsdec rd _ _ _ => some rd
  | .bchfmt rd _ _ => some rd
  | .bchver rd _ => some rd
  | .blkinfo rd _ _ => some rd
  | .deintl _ _ _ _ _ => none
  | .intl _ _ _ _ _ => none
  | .thresh _ _ _ _ => none

/-- The range of `MEM` a command may write, as (base, length) (R54, R65, R66); length 0 for a command that writes none. -/
def storeRange (s : State) : Instr → Nat × Nat
  | .gfinit => (0, 0)
  | .gfadd _ _ _ => (0, 0)
  | .gfmul _ _ _ => (0, 0)
  | .gfdiv _ _ _ => (0, 0)
  | .gfinv _ _ => (0, 0)
  | .gfpow _ _ _ => (0, 0)
  | .gfexp _ _ => (0, 0)
  | .gflog _ _ => (0, 0)
  | .rsenc ra n k => (s.num ra + (n - k), k)
  | .rsdec _ ra n _ => (s.num ra, n)
  | .bchfmt _ _ _ => (0, 0)
  | .bchver _ _ => (0, 0)
  | .blkinfo _ _ _ => (0, 0)
  | .deintl rl _ rb _ _ => (s.num rb, s.num rl)
  | .intl rl _ rb _ _ => (s.num rb, s.num rl)
  | .thresh _ rb _ _ => (s.num rb, s.width * s.height)

/-- The kinds a command can raise once it is decoded (R211's last column, R212). -/
def raises : Instr → List ErrKind
  | .gfinit => []
  | .gfadd _ _ _ => []
  | .gfmul _ _ _ => [.tablesNotReady]
  | .gfdiv _ _ _ => [.tablesNotReady, .gfZeroOperand]
  | .gfinv _ _ => [.tablesNotReady, .gfZeroOperand]
  | .gfpow _ _ _ => [.tablesNotReady]
  | .gfexp _ _ => [.tablesNotReady]
  | .gflog _ _ => [.tablesNotReady, .gfZeroOperand]
  | .rsenc _ _ _ => [.tablesNotReady, .invalidInput, .indexOutOfBounds]
  | .rsdec _ _ _ _ => [.tablesNotReady, .invalidInput, .indexOutOfBounds, .reedSolomonUnrecoverable]
  | .bchfmt _ _ _ => [.formatInfoUnrecoverable]
  | .bchver _ _ => [.versionInfoUnrecoverable]
  | .blkinfo _ _ _ => [.invalidInput]
  | .deintl _ _ _ _ _ => [.invalidInput, .indexOutOfBounds]
  | .intl _ _ _ _ _ => [.invalidInput, .indexOutOfBounds]
  | .thresh _ _ _ _ => [.invalidInput, .imageTooSmall, .indexOutOfBounds]

/-- The commands that read the tables (R105). -/
def needsTables (i : Instr) : Bool := (raises i).contains .tablesNotReady

/-- Two byte ranges share no byte. -/
def disjoint (base len base' len' : Nat) : Prop := base + len ≤ base' ∨ base' + len' ≤ base

/-! ## When the buffer commands run -/

/-- Every check of `RSENC` and `RSDEC` passes (R105, R121, R55). -/
def State.RsRuns (s : State) (ra : Reg) (n k : Nat) : Prop :=
  s.tblRdy = true ∧ 1 ≤ k ∧ k < n ∧ n < 256 ∧ s.num ra + n ≤ s.memBytes

/-- Every check of `DEINTL` and `INTL` passes (R177). -/
def State.InterleaveRuns (s : State) (rl ra rb : Reg) (ver : Nat) (lvl : EccLevel) : Prop :=
  1 ≤ ver ∧ ver ≤ 40 ∧ s.num rl = (s.blkEntry ver lvl).total ∧
  s.num ra + s.num rl ≤ s.memBytes ∧ s.num rb + s.num rl ≤ s.memBytes ∧
  disjoint (s.num ra) (s.num rl) (s.num rb) (s.num rl)

/-- Every check of `THRESH` passes (R191, R193). -/
def State.ThreshRuns (s : State) (ra rb : Reg) : Prop :=
  s.pixFmt ≠ 3 ∧ 21 ≤ s.width ∧ 21 ≤ s.height ∧
  s.num ra + s.width * s.height * bytesPerPixel s.pixFmt ≤ s.memBytes ∧
  s.num rb + s.width * s.height ≤ s.memBytes ∧
  disjoint (s.num ra) (s.width * s.height * bytesPerPixel s.pixFmt) (s.num rb) (s.width * s.height)

/-! ## Terms of the unit claims -/

/-- The number of positions where two blocks differ (R127). -/
def distance (c c' : List Byte) : Nat := (List.zip c c').countP (fun p => p.1 != p.2)

/-- The gray value of pixel `(x, y)` of the image at `src` (R192, R194). -/
def State.grayAt (s : State) (src x y : Nat) : Nat :=
  s.gray s.pixFmt (src + (y * s.width + x) * bytesPerPixel s.pixFmt)

/-- The gray values of the window of tile `(tx, ty)`, as R196 first says it: the pixels of the image whose tile is at
most `WRAD` away in each direction. -/
def State.windowAt (s : State) (src tx ty : Nat) : List Nat :=
  (List.range s.height).flatMap (fun y =>
    ((List.range s.width).filter (fun x =>
      decide (((x / 2 ^ s.tlog : Nat) - (tx : Int)).natAbs ≤ s.wrad) &&
      decide (((y / 2 ^ s.tlog : Nat) - (ty : Int)).natAbs ≤ s.wrad))).map (fun x => s.grayAt src x y))

/-- `base` of the tile of pixel `(x, y)` (R195, R197). -/
def State.baseAt (s : State) (src x y : Nat) : Nat :=
  let px := s.windowAt src (x / 2 ^ s.tlog) (y / 2 ^ s.tlog)
  if s.median then medianOf px else meanOf px

end Sys2Proof.Machine
end

