-- ==== Sys2Proof/Certificates/Slice0/Obligations.lean ====
section
/-!
DEFINITION. The statements for the provers.  Each docstring names the rule of spec/ it formalises, or says that it is
the model's own.

A transaction of the host is the head of `State.port`, and what it returned is `State.reply`: these two fields are the
model's own (log entry 5), so `s.taken rest` in a conclusion says "nothing changed, transaction taken, no value
returned".

`{ s with mem := t.mem }` in a conclusion `t = …` says that every field of the state but memory is unchanged; the
clauses beside it say which bytes of memory change.
-/

open Sys2Proof Sys2Proof.Machine

/-! ## Encoding -/

/-- Decoding the word of a well-formed command gives the command back, every operand at every value (R70 to R76,
R85). -/
def Obligations.DecodeEncodeRoundTrip : Prop :=
  ∀ i : Instr, i.wf = true → decode (encode i) = .ok i

/-- A word that decodes is the word of the command it decodes to, and that command is well formed: no bit is ignored
(R78, R85). -/
def Obligations.DecodedWordIsItsEncoding : Prop :=
  ∀ (w : Word) (i : Instr), decode w = .ok i → i.wf = true ∧ encode i = w

/-- R77: the table of assigned opcodes, and that a word selects the command of a row iff `w and mask = match`, at most
one row. -/
def Obligations.WordSelectsRowIffMaskMatches : Prop :=
  opTable.map (fun r => (r.mnemonic, r.op, r.pattern, r.mask)) =
    [ ("GFINIT", 0x10, 0x10000000#32, 0xFFFFFFFF#32), ("GFADD", 0x11, 0x11000000#32, 0xFF000FFF#32),
      ("GFMUL", 0x12, 0x12000000#32, 0xFF000FFF#32), ("GFDIV", 0x13, 0x13000000#32, 0xFF000FFF#32),
      ("GFINV", 0x14, 0x14000000#32, 0xFF00FFFF#32), ("GFPOW", 0x15, 0x15000000#32, 0xFF000FFF#32),
      ("GFEXP", 0x16, 0x16000000#32, 0xFF00FFFF#32), ("GFLOG", 0x17, 0x17000000#32, 0xFF00FFFF#32),
      ("RSENC", 0x20, 0x20000000#32, 0xFFF00000#32), ("RSDEC", 0x21, 0x21000000#32, 0xFF000000#32),
      ("BCHFMT", 0x30, 0x30000000#32, 0xFF000FFF#32), ("BCHVER", 0x31, 0x31000000#32, 0xFF00FFFF#32),
      ("BLKINFO", 0x40, 0x40000000#32, 0xFF0FFF00#32), ("DEINTL", 0x41, 0x41000000#32, 0xFF000F00#32),
      ("INTL", 0x42, 0x42000000#32, 0xFF000F00#32), ("THRESH", 0x50, 0x50000000#32, 0xFFF00E00#32) ] ∧
  (∀ (w : Word) (i : Instr), decode w = .ok i ↔ ∃ r ∈ opTable, w &&& r.mask = r.pattern ∧ i = r.operands w) ∧
  (∀ w : Word, ∀ r ∈ opTable, ∀ r' ∈ opTable, w &&& r.mask = r.pattern → w &&& r'.mask = r'.pattern → r.op = r'.op)

/-- A word that is no command is rejected by the name of its defect: an unassigned opcode, or an assigned opcode with a
must-be-zero field that is not zero (R78, R79). -/
def Obligations.IllegalWordsAreRejectedByName : Prop :=
  ∀ w : Word,
    (decode w = .error .unassignedOpcode ↔ ∀ r ∈ opTable, r.op ≠ slice w 31 24) ∧
    (decode w = .error .nonZeroMustBeZeroField ↔ ∃ r ∈ opTable, r.op = slice w 31 24 ∧ w &&& r.mask ≠ r.pattern)

/-- Words the spec writes out decode to the commands it writes beside them (R82, R153, R158, R176 to R178, R191), and
the all-zero and the all-one word are no commands (R79). -/
def Obligations.SpecExampleWordsDecode : Prop :=
  decode 0x10000000#32 = .ok .gfinit ∧
  decode 0x11312000#32 = .ok (.gfadd 3 1 2) ∧
  decode 0x12312000#32 = .ok (.gfmul 3 1 2) ∧
  decode 0x20041A0A#32 = .ok (.rsenc 4 26 10) ∧
  decode 0x21341A0A#32 = .ok (.rsdec 3 4 26 10) ∧
  decode 0x30312000#32 = .ok (.bchfmt 3 1 2) ∧
  decode 0x31210000#32 = .ok (.bchver 2 1) ∧
  decode 0x40100085#32 = .ok (.blkinfo 1 5 .Q) ∧
  decode 0x41123085#32 = .ok (.deintl 1 2 3 5 .Q) ∧
  decode 0x42132085#32 = .ok (.intl 1 3 2 5 .Q) ∧
  decode 0x500120FB#32 = .ok (.thresh 1 2 (-5) false) ∧
  decode 0x50012105#32 = .ok (.thresh 1 2 5 true) ∧
  decode 0x00000000#32 = .error .unassignedOpcode ∧
  decode 0xFFFFFFFF#32 = .error .unassignedOpcode

/-! ## The host port -/

/-- A step whose transaction is `Issue(w)`, in `READY`, with `w` the word of a command, is that command executed on the
state with the transaction taken off the port and the reply cleared (R233; the port and the reply are the model's own,
log entry 5). -/
def Obligations.StepRunsTheIssuedCommand : Prop :=
  ∀ (s : State) (w : Word) (rest : List HostTx) (i : Instr),
    s.port = .issue w :: rest → s.run = .ready → decode w = .ok i →
    step s = exec i { s with port := rest, reply := .nothing }

/-- A word that matches no row, issued in `READY`, ends with `fatal IllegalCommand(0)` and changes nothing else (R78,
R215). -/
def Obligations.IllegalWordIsAFatalDefect : Prop :=
  ∀ (s : State) (w : Word) (rest : List HostTx),
    s.port = .issue w :: rest → s.run = .ready → (∀ r ∈ opTable, w &&& r.mask ≠ r.pattern) →
    step s = .next { s.taken rest with run := .fatal, err := 0x83, errCmd := w, errAux := 0 }

/-- R218: a whole batch of words issued while `STATE` is not `READY` is dropped, word after word, with no effect on any
state. -/
def Obligations.IssuedWordsAreDroppedUnlessReady : Prop :=
  ∀ (s : State) (ws : List Word) (rest : List HostTx),
    s.run ≠ .ready → ws ≠ [] → s.port = ws.map HostTx.issue ++ rest →
    core.run ws.length s = .next (s.taken rest)

/-- With no transaction pending the block is idle and keeps all state (R242; that a step is then possible at all is the
model's own, log entry 5). -/
def Obligations.IdleBlockKeepsAllState : Prop :=
  ∀ s : State, s.port = [] → step s = .next s

/-- Every step answers a next state: every transaction in every state has an outcome and every command terminates
(R255, R257, and the end of part 1 of 93_implementation_defined.md). -/
def Obligations.EveryStepAnswersANextState : Prop :=
  ∀ s : State, ∃ t : State, step s = .next t

/-- R219: the acknowledge. -/
def Obligations.AcknowledgeReturnsToReady : Prop :=
  ∀ (s : State) (v : Nat) (rest : List HostTx), s.port = .csrWrite 1 v :: rest →
    (s.run = .failed → step s = .next { s.taken rest with run := .ready, err := 0, errCmd := 0, errAux := 0 }) ∧
    (s.run ≠ .failed → step s = .next (s.taken rest))

/-- R221: in `FATAL` issued words are dropped, host writes ignored, host reads answered, and `Reset` returns to
`READY`. -/
def Obligations.FatalStateIsLeftOnlyByReset : Prop :=
  ∀ (s : State) (tx : HostTx) (rest : List HostTx), s.run = .fatal → s.port = tx :: rest →
    match tx with
    | .reset => ∃ t, step s = .next t ∧ t.run = .ready
    | .issue _ => step s = .next (s.taken rest)
    | .regWrite _ _ => step s = .next (s.taken rest)
    | .memWrite _ _ => step s = .next (s.taken rest)
    | .csrWrite _ _ => step s = .next (s.taken rest)
    | .regRead i => step s = .next { s.taken rest with reply := .word (s.reg i) }
    | .csrRead a => step s = .next { s.taken rest with reply := .word (s.csr a) }
    | .memRead a => step s = .next { s.taken rest with reply := .byte (if a < s.memBytes then s.byteAt a else 0) }

/-- R251: what `Reset()` leaves, from any state. -/
def Obligations.ResetTransactionRestoresResetValues : Prop :=
  ∀ (s : State) (rest : List HostTx), s.port = .reset :: rest →
    ∃ t, step s = .next t ∧ (∀ i, t.reg i = 0) ∧ t.run = .ready ∧ t.tblRdy = false ∧
      t.err = 0 ∧ t.errCmd = 0 ∧ t.errAux = 0 ∧ t.fmtMask = 0x5412 ∧ t.imgW = 0 ∧ t.imgH = 0 ∧ t.imgFmt = 0 ∧
      t.thrCfg = 0x023 ∧ t.tlog = 3 ∧ t.wrad = 2 ∧ t.median = false ∧ t.status = 0 ∧
      (∀ a, t.byteAt a = s.byteAt a) ∧ t.blkTab = s.blkTab ∧ t.memBytes = s.memBytes ∧ t.port = rest ∧
      (∀ i, needsTables i = true → exec i t = .next (t.takeError .tablesNotReady (encode i) 0))

/-- The state after reset holds every value that R46 gives (the model's own reset values are left out: the table
contents, log entry 4, and the parameters, log entries 2 and 3); and no byte of `MEM` holds a value, which is the model's
reading of R46's "unspecified" (log entry 1). -/
def Obligations.ResetStateHoldsTheSpecValues : Prop :=
  (∀ i, State.reset.reg i = 0) ∧ State.reset.run = .ready ∧ State.reset.tblRdy = false ∧
  State.reset.err = 0 ∧ State.reset.errCmd = 0 ∧ State.reset.errAux = 0 ∧ State.reset.fmtMask = 0x5412 ∧
  State.reset.imgW = 0 ∧ State.reset.imgH = 0 ∧ State.reset.imgFmt = 0 ∧ State.reset.thrCfg = 0x023 ∧
  State.reset.status = 0 ∧ (∀ a, State.reset.mem.lookup a = none)

/-- R234: the host reads and writes every general register; a write stores the low 32 bits. -/
def Obligations.RegisterTransactionsReadAndWrite : Prop :=
  ∀ (s : State) (i : Reg) (v : Nat) (rest : List HostTx),
    (s.port = .regRead i :: rest → step s = .next { s.taken rest with reply := .word (s.reg i) }) ∧
    (s.port = .regWrite i v :: rest → s.run ≠ .fatal →
      ∃ t, step s = .next t ∧ t = { s.taken rest with regs := t.regs } ∧
        ∀ j, t.reg j = if j = i then BitVec.ofNat 32 v else s.reg j)

/-- R235: the host reads and writes bytes of `MEM`; outside `MEM` a read returns 0, nothing is written, and the first
such access is recorded as a fatal defect. -/
def Obligations.MemoryTransactionsReadAndWrite : Prop :=
  ∀ (s : State) (a v : Nat) (rest : List HostTx),
    (s.port = .memRead a :: rest → a < s.memBytes → step s = .next { s.taken rest with reply := .byte (s.byteAt a) }) ∧
    (s.port = .memWrite a v :: rest → a < s.memBytes → s.run ≠ .fatal →
      ∃ t, step s = .next t ∧ t = { s.taken rest with mem := t.mem } ∧
        ∀ b, t.byteAt b = if b = a then BitVec.ofNat 8 v else s.byteAt b) ∧
    (s.port = .memWrite a v :: rest → s.run = .fatal → step s = .next (s.taken rest)) ∧
    (s.port = .memRead a :: rest → s.memBytes ≤ a → s.run ≠ .fatal →
      step s = .next { s.taken rest with
        run := .fatal, err := 0x80, errCmd := 0, errAux := BitVec.ofNat 32 a, reply := .byte 0 }) ∧
    (s.port = .memWrite a v :: rest → s.memBytes ≤ a → s.run ≠ .fatal →
      step s = .next { s.taken rest with run := .fatal, err := 0x80, errCmd := 0, errAux := BitVec.ofNat 32 a }) ∧
    (s.port = .memRead a :: rest → s.memBytes ≤ a → s.run = .fatal →
      step s = .next { s.taken rest with reply := .byte 0 })

/-- What the host reads at each CSR address, in every `STATE` (R34 to R43): `STATUS[1:0]` is `STATE` and `STATUS[8]` is
`TBLRDY`, the eight stored CSRs read their contents, a reserved address reads 0. -/
def Obligations.CsrReadsFollowTheMap : Prop :=
  ∀ (s : State) (a : Nat) (rest : List HostTx), s.port = .csrRead a :: rest →
    ∃ v, step s = .next { s.taken rest with reply := .word v } ∧
      (a = 0 → slice v 1 0 = s.run.code ∧ slice v 7 2 = 0 ∧ slice v 8 8 = s.tblRdy.toNat ∧ slice v 31 9 = 0) ∧
      (a = 1 → v = s.err) ∧ (a = 2 → v = s.errCmd) ∧ (a = 3 → v = s.errAux) ∧ (a = 4 → v = s.fmtMask) ∧
      (a = 5 → v = s.imgW) ∧ (a = 6 → v = s.imgH) ∧ (a = 7 → v = s.imgFmt) ∧ (a = 8 → v = s.thrCfg) ∧
      (9 ≤ a → v = 0)

/-- What a host write to each CSR address but `ERR` does in `READY` and `FAILED` (R38 to R43, R236): a configuration CSR
takes its named bits, the read-only and the reserved addresses ignore the write. -/
def Obligations.CsrWritesStoreTheNamedBits : Prop :=
  ∀ (s : State) (a v : Nat) (rest : List HostTx), s.port = .csrWrite a v :: rest → s.run ≠ .fatal → a ≠ 1 →
    step s = .next { s.taken rest with
      fmtMask := if a = 4 then BitVec.ofNat 32 (v % 2 ^ 15) else s.fmtMask
      imgW := if a = 5 then BitVec.ofNat 32 (v % 2 ^ 16) else s.imgW
      imgH := if a = 6 then BitVec.ofNat 32 (v % 2 ^ 16) else s.imgH
      imgFmt := if a = 7 then BitVec.ofNat 32 (v % 4) else s.imgFmt
      thrCfg := if a = 8 then BitVec.ofNat 32 (v % 2 ^ 7 + v / 2 ^ 8 % 2 * 2 ^ 8) else s.thrCfg }

/-! ## The whole machine -/

/-- Every step keeps the invariant: R47 (a) to (d), the canonical form and the bound of memory, and the legality of the
parameters. -/
def Obligations.EveryStepKeepsTheInvariant : Prop :=
  ∀ s t : State, s.Inv → step s = .next t → t.Inv

/-- The state after reset has the invariant (that its parameters are legal rests on the model's own values for them, log
entries 2 and 3; the rest are reset values of R46). -/
def Obligations.InvariantHoldsAtReset : Prop := State.reset.Inv

/-- What holds in every reachable state, for every script of the host and every legal choice of the parameters: R47, and
two properties of the model's own form of memory (log entry 1): its addresses rise strictly, and it lists none at or above
`MEM_BYTES` (R30, R51). -/
def Obligations.ReachableStatesMeetTheInvariant : Prop :=
  ∀ s : State, Reachable s →
    (s.err = 0 ↔ s.run = .ready) ∧
    (s.run = .failed → s.err ∈ [(4 : Word), 5, 6, 9, 10]) ∧
    (s.run = .fatal → s.err ∈ [(0x80 : Word), 0x81, 0x82, 0x83]) ∧
    (s.tblRdy = true → s.exp = genExp ∧ s.log = genLog) ∧
    (s.csr 0 &&& ~~~(0x103 : Word) = 0 ∧ s.csr 1 &&& ~~~(0xFF : Word) = 0 ∧ s.csr 4 &&& ~~~(0x7FFF : Word) = 0 ∧
      s.csr 5 &&& ~~~(0xFFFF : Word) = 0 ∧ s.csr 6 &&& ~~~(0xFFFF : Word) = 0 ∧ s.csr 7 &&& ~~~(0x3 : Word) = 0 ∧
      s.csr 8 &&& ~~~(0x17F : Word) = 0) ∧
    (∀ i, (s.reg i).toNat < 2 ^ 32) ∧ s.mem.wf ∧ (∀ c ∈ s.mem, c.1 < s.memBytes)

/-- No step changes the parameters of the instance, `MEM_BYTES` and `BLKTAB` (R14, R29). -/
def Obligations.ParametersNeverChange : Prop :=
  ∀ s t : State, step s = .next t → t.memBytes = s.memBytes ∧ t.blkTab = s.blkTab

/-- `STATE` changes only by a command that ends in an error, a host access outside `MEM`, an acknowledge, or reset
(R35). -/
def Obligations.StateChangesOnlyAsListed : Prop :=
  ∀ s t : State, step s = .next t → t.run ≠ s.run →
    (s.run = .ready ∧ (t.run = .failed ∨ t.run = .fatal) ∧ ∃ w rest, s.port = .issue w :: rest) ∨
    (s.run ≠ .fatal ∧ t.run = .fatal ∧
      ∃ a rest, s.memBytes ≤ a ∧ (s.port = .memRead a :: rest ∨ ∃ v, s.port = .memWrite a v :: rest)) ∨
    (s.run = .failed ∧ t.run = .ready ∧ ∃ v rest, s.port = .csrWrite 1 v :: rest) ∨
    (t.run = .ready ∧ ∃ rest, s.port = .reset :: rest)

/-- R28: `TBLRDY` is `STATUS[8]`, 0 after reset, set by a `GFINIT` that executes and by nothing else, cleared only by
reset. -/
def Obligations.TableReadyBitIsStickyUntilReset : Prop :=
  State.reset.tblRdy = false ∧
  (∀ s : State, slice s.status 8 8 = s.tblRdy.toNat) ∧
  (∀ s : State, ∃ t, exec .gfinit s = .next t ∧ t.tblRdy = true) ∧
  (∀ s t : State, step s = .next t → s.tblRdy = true → t.tblRdy = false → ∃ rest, s.port = .reset :: rest) ∧
  (∀ s t : State, step s = .next t → s.tblRdy = false → t.tblRdy = true →
    ∃ w rest, s.port = .issue w :: rest ∧ decode w = .ok .gfinit)

/-- Only `GFINIT` writes the tables, and only while `TBLRDY = 0` (R27); reset leaves their contents unspecified. -/
def Obligations.OnlyGfinitWritesTheTables : Prop :=
  ∀ s t : State, step s = .next t → ¬ (t.exp = s.exp ∧ t.log = s.log) →
    (∃ rest, s.port = .reset :: rest) ∨
    (s.tblRdy = false ∧ ∃ w rest, s.port = .issue w :: rest ∧ decode w = .ok .gfinit)

/-- A command executed in `READY` either completes, and then touches no error register, no configuration CSR and
neither the parameters nor the port, or ends with one kind that its rules list, and then changes nothing but `STATE` and
the three error registers (R211, R214, R215, R216). -/
def Obligations.CommandsAreAllOrNothing : Prop :=
  ∀ (i : Instr) (s t : State), s.run = .ready → exec i s = .next t →
    (t = { s with regs := t.regs, mem := t.mem, exp := t.exp, log := t.log, tblRdy := t.tblRdy }) ∨
    (∃ k aux, k ∈ raises i ∧ (k ≠ .indexOutOfBounds → aux = 0) ∧ t.run ≠ .ready ∧
      t = { s with run := k.target, err := k.code, errCmd := encode i, errAux := aux })

/-- A command writes at most one general register, its `rd` (R21). -/
def Obligations.CommandWritesOnlyItsDestination : Prop :=
  ∀ (i : Instr) (s t : State) (r : Reg), exec i s = .next t → t.reg r ≠ s.reg r → destOf i = some r

/-- R65: a command writes no byte outside the range its rule names, and `THRESH` no byte of its image. -/
def Obligations.CommandStoresOnlyInItsRange : Prop :=
  (∀ (i : Instr) (s t : State) (a : Nat), exec i s = .next t →
    (a < (storeRange s i).1 ∨ (storeRange s i).1 + (storeRange s i).2 ≤ a) → t.byteAt a = s.byteAt a) ∧
  (∀ (ra rb : Reg) (off : Int) (inv : Bool) (s t : State) (a : Nat), exec (.thresh ra rb off inv) s = .next t →
    s.num ra ≤ a → a < s.num ra + s.width * s.height * bytesPerPixel s.pixFmt → t.byteAt a = s.byteAt a)

/-! ## GF unit -/

/-- `GFINIT` completes from every state: the first one generates the tables, a later one changes nothing (R95). -/
def Obligations.GfinitGeneratesTheTablesOnce : Prop :=
  ∀ s : State,
    (s.tblRdy = false → exec .gfinit s = .next { s with exp := genExp, log := genLog, tblRdy := true }) ∧
    (s.tblRdy = true → exec .gfinit s = .next s)

/-- R94: the generator's loop, whatever the tables held before, leaves `EXP[i] = alpha^i` and a `LOG` with
`EXP[LOG[a]] = a` and `LOG[a] <= 254`; and its first entries. -/
def Obligations.GeneratorLoopLeavesTheTables : Prop :=
  (∀ (ex : Vector Byte 256) (lg : Vector Byte 255), generatorLoop 255 0 1 ex lg = (genExp, genLog)) ∧
  (∀ (i : Nat) (h : i < 256), genExp[i] = alphaPow i) ∧
  (∀ (j : Nat) (h : j < 255), genLog[j].toNat ≤ 254 ∧ genExp[genLog[j].toNat] = BitVec.ofNat 8 (j + 1)) ∧
  genExp.toList.take 16 = [0x01, 0x02, 0x04, 0x08, 0x10, 0x20, 0x40, 0x80, 0x1d, 0x3a, 0x74, 0xe8, 0xcd, 0x87, 0x13, 0x26]

/-- `GFADD` completes from every state, whether or not the tables are ready (R96, R104). -/
def Obligations.GfaddAddsTheLowBytes : Prop :=
  ∀ (rd ra rb : Reg) (s : State),
    exec (.gfadd rd ra rb) s =
      .next (s.setReg rd (((s.reg ra).extractLsb' 0 8 ^^^ (s.reg rb).extractLsb' 0 8).setWidth 32))

/-- With the tables ready `GFMUL` completes and gives the product in the field (R97, R104). -/
def Obligations.GfmulMultipliesInTheField : Prop :=
  ∀ (rd ra rb : Reg) (s : State), s.TablesOk → s.tblRdy = true →
    exec (.gfmul rd ra rb) s = .next (s.setReg rd ((gmul (s.elem ra) (s.elem rb)).setWidth 32))

/-- With the tables ready `GFDIV` by a non-zero element completes and gives the one `v` with `gmul(v, b) = a`; by zero
it ends with `fatal GfZeroOperand(0)`, also for `0 / 0` (R98). -/
def Obligations.GfdivDividesInTheField : Prop :=
  ∀ (rd ra rb : Reg) (s : State), s.TablesOk → s.tblRdy = true →
    (s.elem rb ≠ 0 → ∃ v : Byte, exec (.gfdiv rd ra rb) s = .next (s.setReg rd (v.setWidth 32)) ∧
      ∀ x : Byte, gmul x (s.elem rb) = s.elem ra ↔ x = v) ∧
    (s.elem rb = 0 → exec (.gfdiv rd ra rb) s = .next (s.takeError .gfZeroOperand (encode (.gfdiv rd ra rb)) 0))

/-- With the tables ready `GFINV` of a non-zero element completes and gives the one `v` with `gmul(a, v) = 1`; of zero
it ends with `fatal GfZeroOperand(0)` (R99). -/
def Obligations.GfinvInvertsInTheField : Prop :=
  ∀ (rd ra : Reg) (s : State), s.TablesOk → s.tblRdy = true →
    (s.elem ra ≠ 0 → ∃ v : Byte, exec (.gfinv rd ra) s = .next (s.setReg rd (v.setWidth 32)) ∧
      ∀ x : Byte, gmul (s.elem ra) x = 1 ↔ x = v) ∧
    (s.elem ra = 0 → exec (.gfinv rd ra) s = .next (s.takeError .gfZeroOperand (encode (.gfinv rd ra)) 0))

/-- With the tables ready `GFPOW` completes and gives the element multiplied by itself as often as the whole 32-bit
register says, with `0^0 = 1` (R100). -/
def Obligations.GfpowRaisesInTheField : Prop :=
  ∀ (rd ra rb : Reg) (s : State), s.TablesOk → s.tblRdy = true →
    exec (.gfpow rd ra rb) s = .next (s.setReg rd ((gpow (s.elem ra) (s.reg rb).toNat).setWidth 32))

/-- With the tables ready `GFEXP` completes and gives `alpha` to the whole 32-bit register (R101). -/
def Obligations.GfexpRaisesAlpha : Prop :=
  ∀ (rd ra : Reg) (s : State), s.TablesOk → s.tblRdy = true →
    exec (.gfexp rd ra) s = .next (s.setReg rd ((alphaPow (s.reg ra).toNat).setWidth 32))

/-- With the tables ready `GFLOG` of a non-zero element completes and gives the exponent in 0..254; of zero it ends with
`fatal GfZeroOperand(0)` (R102). -/
def Obligations.GflogTakesTheLogarithm : Prop :=
  ∀ (rd ra : Reg) (s : State), s.TablesOk → s.tblRdy = true →
    (s.elem ra ≠ 0 → ∃ l : Nat, l ≤ 254 ∧ alphaPow l = s.elem ra ∧
      exec (.gflog rd ra) s = .next (s.setReg rd (BitVec.ofNat 32 l))) ∧
    (s.elem ra = 0 → exec (.gflog rd ra) s = .next (s.takeError .gfZeroOperand (encode (.gflog rd ra)) 0))

/-- The laws of the multiplier that R92, R93 and R91 list: a commutative, associative product that distributes over xor,
with 1 and 0 as they should be and no zero divisors; `xtime` is the product with `alpha`, and the 255 powers of `alpha`
are the non-zero elements, each once. -/
def Obligations.FieldMultiplicationLaws : Prop :=
  (∀ a b : Byte, gmul a b = gmul b a) ∧
  (∀ a b c : Byte, gmul (gmul a b) c = gmul a (gmul b c)) ∧
  (∀ a b c : Byte, gmul a (b ^^^ c) = gmul a b ^^^ gmul a c) ∧
  (∀ a : Byte, gmul a 1 = a ∧ gmul a 0 = 0 ∧ xtime a = gmul a 2) ∧
  (∀ a b : Byte, gmul a b = 0 → a = 0 ∨ b = 0) ∧
  (∀ a : Byte, a ≠ 0 → ∃! i : Fin 255, alphaPow i.val = a) ∧ alphaPow 255 = 1

/-- R105: the eight table-using commands end with `fatal TablesNotReady(0)` while `TBLRDY = 0`, before any operand
check, and no other command takes that defect. -/
def Obligations.TableCommandsNeedTheTables : Prop :=
  (∀ (rd ra rb : Reg) (n k : Nat) (s : State), s.tblRdy = false →
    ∀ i ∈ [Instr.gfmul rd ra rb, .gfdiv rd ra rb, .gfinv rd ra, .gfpow rd ra rb, .gfexp rd ra, .gflog rd ra,
      .rsenc ra n k, .rsdec rd ra n k], exec i s = .next (s.takeError .tablesNotReady (encode i) 0)) ∧
  (∀ (rd ra rb : Reg) (ver : Nat) (lvl : EccLevel) (off : Int) (inv : Bool) (s t : State),
    ∀ i ∈ [Instr.gfinit, .gfadd rd ra rb, .bchfmt rd ra rb, .bchver rd ra, .blkinfo rd ver lvl,
      .deintl rd ra rb ver lvl, .intl rd ra rb ver lvl, .thresh ra rb off inv],
    exec i s = .next t → t.err = 0x82 → s.err = 0x82)

/-! ## RS unit -/

/-- Where its checks pass `RSENC` completes: the data bytes stay, the ECC bytes make the block a codeword, no other byte
and nothing else changes (R125, R124). -/
def Obligations.RsencMakesTheBlockACodeword : Prop :=
  ∀ (ra : Reg) (n k : Nat) (s : State), s.RsRuns ra n k →
    ∃ t, exec (.rsenc ra n k) s = .next t ∧ t = { s with mem := t.mem } ∧
      t.bytesAt (s.num ra) (n - k) = s.bytesAt (s.num ra) (n - k) ∧
      isCodeword (t.bytesAt (s.num ra) n) k = true ∧
      (∀ a, a < s.num ra + (n - k) ∨ s.num ra + n ≤ a → t.byteAt a = s.byteAt a)

/-- For every choice of the data bytes one choice of the ECC bytes makes the block a codeword, and two different
codewords of the same lengths differ in at least `k + 1` positions (R124). -/
def Obligations.CodewordsDifferInMoreThanKPositions : Prop :=
  ∀ n k : Nat, 1 ≤ k → k < n → n < 256 →
    (∀ d : List Byte, d.length = n - k → ∃! e : List Byte, e.length = k ∧ isCodeword (d ++ e) k = true) ∧
    (∀ c c' : List Byte, c.length = n → c'.length = n → isCodeword c k = true → isCodeword c' k = true → c ≠ c' →
      k + 1 ≤ distance c c')

/-- R127 (it closes log entry 7): bounded-distance decoding.  If a codeword is within `floor(k/2)` positions of the
block, `RSDEC` completes with that codeword in the block and the number of differing positions in `rd`; if none is, it
ends with `fail ReedSolomonUnrecoverable`. -/
def Obligations.RsdecDecodesToTheBoundedDistance : Prop :=
  ∀ (rd ra : Reg) (n k : Nat) (s : State), s.RsRuns ra n k →
    (∀ c : List Byte, c.length = n → isCodeword c k = true → distance (s.bytesAt (s.num ra) n) c ≤ k / 2 →
      ∃ t, exec (.rsdec rd ra n k) s = .next t ∧ t.bytesAt (s.num ra) n = c ∧
        (∀ a, a < s.num ra ∨ s.num ra + n ≤ a → t.byteAt a = s.byteAt a) ∧
        t = { s.setReg rd (BitVec.ofNat 32 (distance (s.bytesAt (s.num ra) n) c)) with mem := t.mem }) ∧
    ((∀ c : List Byte, c.length = n → isCodeword c k = true → k / 2 < distance (s.bytesAt (s.num ra) n) c) →
      exec (.rsdec rd ra n k) s = .next (s.takeError .reedSolomonUnrecoverable (encode (.rsdec rd ra n k)) 0))

/-- Where its checks pass and the block is already a codeword, `RSDEC` completes, writes nothing to memory and gives 0
(R129(a)). -/
def Obligations.RsdecLeavesACodewordAlone : Prop :=
  ∀ (rd ra : Reg) (n k : Nat) (s : State), s.RsRuns ra n k → isCodeword (s.bytesAt (s.num ra) n) k = true →
    exec (.rsdec rd ra n k) s = .next (s.setReg rd 0)

/-- Whatever `RSDEC` returns as corrected is a codeword at most `floor(k/2)` positions from the block as it was, `rd` is
the number of changed positions, and nothing else changes; otherwise memory and registers are as they were (R129(d),
R130, R133). -/
def Obligations.RsdecSuccessIsSound : Prop :=
  ∀ (rd ra : Reg) (n k : Nat) (s t : State), s.RsRuns ra n k → s.run = .ready → exec (.rsdec rd ra n k) s = .next t →
    (t.run = .ready → isCodeword (t.bytesAt (s.num ra) n) k = true ∧
      distance (s.bytesAt (s.num ra) n) (t.bytesAt (s.num ra) n) ≤ k / 2 ∧
      (∀ a, a < s.num ra ∨ s.num ra + n ≤ a → t.byteAt a = s.byteAt a) ∧
      t = { s.setReg rd (BitVec.ofNat 32 (distance (s.bytesAt (s.num ra) n) (t.bytesAt (s.num ra) n))) with
            mem := t.mem }) ∧
    (t.run ≠ .ready → t.mem = s.mem ∧ t.regs = s.regs ∧ t.err = 0x06)

/-- With the tables ready, `RSENC` and `RSDEC` fail with `InvalidInput` on `k = 0` or `k >= n`, before the bounds check,
and take `IndexOutOfBounds` with the base address where the block leaves `MEM` (R121, R136, R55). -/
def Obligations.RsChecksParametersThenBounds : Prop :=
  ∀ (rd ra : Reg) (n k : Nat) (s : State), s.tblRdy = true → ∀ i ∈ [Instr.rsenc ra n k, .rsdec rd ra n k],
    (k = 0 ∨ n ≤ k → exec i s = .next (s.takeError .invalidInput (encode i) 0)) ∧
    (1 ≤ k → k < n → s.memBytes < s.num ra + n →
      exec i s = .next (s.takeError .indexOutOfBounds (encode i) (s.reg ra)))

/-! ## BCH unit -/

/-- Format correction finds the one value whose codeword is within 3 bits, if there is one; any two codewords differ in
at least 7 bits (R150, R152). -/
def Obligations.FormatCorrectionFindsTheCodeword : Prop :=
  (∀ d d' : BitVec 5, d ≠ d' → 7 ≤ popcount (fmtCw d ^^^ fmtCw d')) ∧
  (∀ (u : BitVec 15) (d : BitVec 5), fmtCorrect u = some d ↔ popcount (u ^^^ fmtCw d) ≤ 3)

/-- Version correction finds the one value whose codeword is within 3 bits, if there is one; any two codewords differ in
at least 8 bits (R156, R157). -/
def Obligations.VersionCorrectionFindsTheCodeword : Prop :=
  (∀ v v' : BitVec 6, v ≠ v' → 8 ≤ popcount (verCw v ^^^ verCw v')) ∧
  (∀ (u : BitVec 18) (v : BitVec 6), verCorrect u = some v ↔ popcount (u ^^^ verCw v) ≤ 3)

/-- `BCHFMT` completes where both unmasked copies are within 3 bits of the codeword of one `d`, with the fields of `d` in
their places in `rd`; where there is no such `d` it ends with `fail FormatInfoUnrecoverable` (R153, R154, R155(a)). -/
def Obligations.BchfmtReturnsTheAgreedValue : Prop :=
  ∀ (rd ra rb : Reg) (s : State),
    (∀ d : BitVec 5, popcount (s.fmtWord ra ^^^ s.mask15 ^^^ fmtCw d) ≤ 3 →
      popcount (s.fmtWord rb ^^^ s.mask15 ^^^ fmtCw d) ≤ 3 →
      ∃ v : Word, exec (.bchfmt rd ra rb) s = .next (s.setReg rd v) ∧
        slice v 4 0 = d.toNat ∧ slice v 7 5 = 0 ∧ slice v 31 10 = 0 ∧
        slice v 9 8 = (match d.toNat / 8 with | 0 => 1 | 1 => 0 | 2 => 3 | _ => 2)) ∧
    ((∀ d : BitVec 5, ¬ (popcount (s.fmtWord ra ^^^ s.mask15 ^^^ fmtCw d) ≤ 3 ∧
        popcount (s.fmtWord rb ^^^ s.mask15 ^^^ fmtCw d) ≤ 3)) →
      exec (.bchfmt rd ra rb) s = .next (s.takeError .formatInfoUnrecoverable (encode (.bchfmt rd ra rb)) 0))

/-- `BCHVER` completes where the word is within 3 bits of the codeword of a version in 7..40, with that version in `rd`;
otherwise it ends with `fail VersionInfoUnrecoverable` (R158). -/
def Obligations.BchverReturnsTheVersion : Prop :=
  ∀ (rd ra : Reg) (s : State),
    (∀ v : BitVec 6, 7 ≤ v.toNat → v.toNat ≤ 40 → popcount (s.verWord ra ^^^ verCw v) ≤ 3 →
      exec (.bchver rd ra) s = .next (s.setReg rd (v.setWidth 32))) ∧
    ((∀ v : BitVec 6, 7 ≤ v.toNat → v.toNat ≤ 40 → 3 < popcount (s.verWord ra ^^^ verCw v)) →
      exec (.bchver rd ra) s = .next (s.takeError .versionInfoUnrecoverable (encode (.bchver rd ra)) 0))

/-! ## Interleave unit -/

/-- `BLKINFO` completes for versions 1..40 with the word of the block table, and fails with `InvalidInput` for every
other version immediate (R176). -/
def Obligations.BlkinfoReadsTheBlockTable : Prop :=
  ∀ (rd : Reg) (ver : Nat) (lvl : EccLevel) (s : State),
    (1 ≤ ver → ver ≤ 40 →
      exec (.blkinfo rd ver lvl) s = .next (s.setReg rd (s.blkTab.getD (4 * (ver - 1) + lvl.ord) 0))) ∧
    (ver = 0 ∨ 40 < ver →
      exec (.blkinfo rd ver lvl) s = .next (s.takeError .invalidInput (encode (.blkinfo rd ver lvl)) 0))

/-- The length `T` of an entry is the sum R172 gives, in a legal table it is the version's total codewords, and every
block is a legal Reed-Solomon block (R172, R173). -/
def Obligations.BlockLengthsAddUpToTheTotal : Prop :=
  (∀ e : BlkEntry, e.total = e.g1n * (e.g1k + e.ecc) + e.g2n * (e.g1k + 1 + e.ecc)) ∧
  (∀ (tab : List Word) (ver : Nat) (lvl : EccLevel), blkTabWf tab = true → 1 ≤ ver → ver ≤ 40 →
    (BlkEntry.ofWord (tab.getD (4 * (ver - 1) + lvl.ord) 0)).total = totalCodewords ver ∧
    ∀ b, rsLegal ((BlkEntry.ofWord (tab.getD (4 * (ver - 1) + lvl.ord) 0)).nlen b)
      (BlkEntry.ofWord (tab.getD (4 * (ver - 1) + lvl.ord) 0)).ecc = true)

/-- `map` has `T` entries and is a bijection of `0..T-1`, for every entry, legal or not (R175). -/
def Obligations.StreamMapIsABijection : Prop :=
  ∀ e : BlkEntry, e.streamMap.length = e.total ∧ e.streamMap.Nodup ∧ ∀ q, q ∈ e.streamMap ↔ q < e.total

/-- Where its checks pass `DEINTL` completes: stream byte `p` is at offset `map[p]` of the block area, no other byte and
nothing else changes (R177). -/
def Obligations.DeintlScattersTheStream : Prop :=
  ∀ (rl ra rb : Reg) (ver : Nat) (lvl : EccLevel) (s : State), s.InterleaveRuns rl ra rb ver lvl →
    ∃ t, exec (.deintl rl ra rb ver lvl) s = .next t ∧ t = { s with mem := t.mem } ∧
      (∀ p, p < s.num rl →
        t.byteAt (s.num rb + (s.blkEntry ver lvl).streamMap.getD p 0) = s.byteAt (s.num ra + p)) ∧
      (∀ a, a < s.num rb ∨ s.num rb + s.num rl ≤ a → t.byteAt a = s.byteAt a)

/-- Where its checks pass `INTL` completes: stream byte `p` is the byte at offset `map[p]` of the block area, no other
byte and nothing else changes (R178). -/
def Obligations.IntlGathersTheStream : Prop :=
  ∀ (rl ra rb : Reg) (ver : Nat) (lvl : EccLevel) (s : State), s.InterleaveRuns rl ra rb ver lvl →
    ∃ t, exec (.intl rl ra rb ver lvl) s = .next t ∧ t = { s with mem := t.mem } ∧
      (∀ p, p < s.num rl →
        t.byteAt (s.num rb + p) = s.byteAt (s.num ra + (s.blkEntry ver lvl).streamMap.getD p 0)) ∧
      (∀ a, a < s.num rb ∨ s.num rb + s.num rl ≤ a → t.byteAt a = s.byteAt a)

/-- R179: for pairwise disjoint buffers in range, `DEINTL` then `INTL` copies the stream, and `INTL` then `DEINTL` copies
the block area, byte for byte. -/
def Obligations.InterleavingIsInvertedByDeinterleaving : Prop :=
  ∀ (rl rx ry rz : Reg) (ver : Nat) (lvl : EccLevel) (s : State),
    s.InterleaveRuns rl rx ry ver lvl → s.InterleaveRuns rl ry rz ver lvl →
    disjoint (s.num rx) (s.num rl) (s.num rz) (s.num rl) →
    (∃ t u, exec (.deintl rl rx ry ver lvl) s = .next t ∧ exec (.intl rl ry rz ver lvl) t = .next u ∧
      u.bytesAt (s.num rz) (s.num rl) = s.bytesAt (s.num rx) (s.num rl)) ∧
    (∃ t u, exec (.intl rl rx ry ver lvl) s = .next t ∧ exec (.deintl rl ry rz ver lvl) t = .next u ∧
      u.bytesAt (s.num rz) (s.num rl) = s.bytesAt (s.num rx) (s.num rl))

/-- The checks of `DEINTL` and `INTL`, in R177's order: version, length, source range, destination range, overlap. -/
def Obligations.InterleaveChecksInOrder : Prop :=
  ∀ (rl ra rb : Reg) (ver : Nat) (lvl : EccLevel) (s : State),
    ∀ i ∈ [Instr.deintl rl ra rb ver lvl, .intl rl ra rb ver lvl],
    if ver = 0 ∨ 40 < ver then exec i s = .next (s.takeError .invalidInput (encode i) 0)
    else if s.num rl ≠ (s.blkEntry ver lvl).total then exec i s = .next (s.takeError .invalidInput (encode i) 0)
    else if s.memBytes < s.num ra + s.num rl then
      exec i s = .next (s.takeError .indexOutOfBounds (encode i) (s.reg ra))
    else if s.memBytes < s.num rb + s.num rl then
      exec i s = .next (s.takeError .indexOutOfBounds (encode i) (s.reg rb))
    else s.num ra < s.num rb + s.num rl → s.num rb < s.num ra + s.num rl →
      exec i s = .next (s.takeError .invalidInput (encode i) 0)

/-! ## Threshold unit -/

/-- Where its checks pass `THRESH` completes: the byte of pixel `(x, y)` is `dark xor inv`, dark iff the gray value is
below the base of the pixel's tile plus `off`, the base taken over the window of R196; no other byte and nothing else
changes (R190, R191, R194 to R199). -/
def Obligations.ThreshWritesTheBitmap : Prop :=
  ∀ (ra rb : Reg) (off : Int) (inv : Bool) (s : State), s.ThreshRuns ra rb →
    ∃ t, exec (.thresh ra rb off inv) s = .next t ∧ t = { s with mem := t.mem } ∧
      (∀ x y, x < s.width → y < s.height → t.byteAt (s.num rb + (y * s.width + x)) =
        if decide ((s.grayAt (s.num ra) x y : Int) < s.baseAt (s.num ra) x y + off) = inv then 0x00 else 0x01) ∧
      (∀ a, a < s.num rb ∨ s.num rb + s.width * s.height ≤ a → t.byteAt a = s.byteAt a)

/-- The bitmap with `inv = 1` is the bytewise negation of the one with `inv = 0`, and the set of dark pixels grows with
`off` (R199, R201(b), R201(c)). -/
def Obligations.BitmapNegatesWithPolarityAndGrowsWithOffset : Prop :=
  ∀ (ra rb : Reg) (off off' : Int) (s : State), s.ThreshRuns ra rb → off ≤ off' →
    ∃ t n g, exec (.thresh ra rb off false) s = .next t ∧ exec (.thresh ra rb off true) s = .next n ∧
      exec (.thresh ra rb off' false) s = .next g ∧
      ∀ j, j < s.width * s.height →
        n.byteAt (s.num rb + j) = t.byteAt (s.num rb + j) ^^^ 1 ∧
        (t.byteAt (s.num rb + j) = 1 → g.byteAt (s.num rb + j) = 1)

/-- The statistics of a window of bytes: the mean is the floor of the sum over the count, the median the lower median
(R197). -/
def Obligations.WindowStatisticsAreMeanAndLowerMedian : Prop :=
  ∀ px : List Nat, px ≠ [] → (∀ v ∈ px, v < 256) →
    meanOf px = px.sum / px.length ∧
    medianOf px ∈ px ∧
    px.length ≤ 2 * px.countP (fun v => v ≤ medianOf px) ∧
    2 * px.countP (fun v => v < medianOf px) < px.length

/-- The checks of `THRESH`, in the order of R191 and R193: format and zero size, minimum size, image range, bitmap range,
overlap. -/
def Obligations.ThreshChecksInOrder : Prop :=
  ∀ (ra rb : Reg) (off : Int) (inv : Bool) (s : State),
    if s.pixFmt = 3 ∨ s.width = 0 ∨ s.height = 0 then
      exec (.thresh ra rb off inv) s = .next (s.takeError .invalidInput (encode (.thresh ra rb off inv)) 0)
    else if s.width < 21 ∨ s.height < 21 then
      exec (.thresh ra rb off inv) s = .next (s.takeError .imageTooSmall (encode (.thresh ra rb off inv)) 0)
    else if s.memBytes < s.num ra + s.width * s.height * bytesPerPixel s.pixFmt then
      exec (.thresh ra rb off inv) s =
        .next (s.takeError .indexOutOfBounds (encode (.thresh ra rb off inv)) (s.reg ra))
    else if s.memBytes < s.num rb + s.width * s.height then
      exec (.thresh ra rb off inv) s =
        .next (s.takeError .indexOutOfBounds (encode (.thresh ra rb off inv)) (s.reg rb))
    else
      s.num ra < s.num rb + s.width * s.height →
      s.num rb < s.num ra + s.width * s.height * bytesPerPixel s.pixFmt →
      exec (.thresh ra rb off inv) s = .next (s.takeError .invalidInput (encode (.thresh ra rb off inv)) 0)
end

