-- ==== Sys2Proof/Laws/Decode.lean ====
section
/-!
SUPPORT. How the fields of an encoded word read back, and the row the decoder finds.
-/

namespace Sys2Proof

/-- The value of a word of formats Z, R3, R2, V and T, when every field fits. -/
theorem fields_toNat {op f1 ra rb imm : Nat} (ho : op < 256) (h1 : f1 < 16) (ha : ra < 16) (hb : rb < 16)
    (hi : imm < 4096) :
    (fields op f1 ra rb imm).toNat = op * 2 ^ 24 + f1 * 2 ^ 20 + ra * 2 ^ 16 + rb * 2 ^ 12 + imm := by
  unfold fields
  rw [BitVec.toNat_ofNat]
  omega

/-- The value of a word of format M, when every field fits. -/
theorem fieldsM_toNat {op f1 ra n k : Nat} (ho : op < 256) (h1 : f1 < 16) (ha : ra < 16) :
    (fieldsM op f1 ra n k).toNat = op * 2 ^ 24 + f1 * 2 ^ 20 + ra * 2 ^ 16 + n % 256 * 2 ^ 8 + k % 256 := by
  unfold fieldsM
  rw [BitVec.toNat_ofNat]
  omega

/-- A word is its high part above `2^k` and its low part. -/
theorem and_high_low (x h l k : Nat) (hl : l < 2 ^ k) :
    x &&& (h * 2 ^ k + l) = (x / 2 ^ k &&& h) * 2 ^ k + (x % 2 ^ k &&& l) := by
  apply Nat.eq_of_testBit_eq
  intro i
  rw [Nat.testBit_and, Nat.mul_comm h, Nat.mul_comm (_ &&& h),
    Nat.testBit_two_pow_mul_add _ hl, Nat.testBit_two_pow_mul_add _ (Nat.lt_of_le_of_lt Nat.and_le_right hl)]
  by_cases hik : i < k
  · simp [hik, Nat.testBit_mod_two_pow]
  · simp [hik, Nat.testBit_div_two_pow, Nat.sub_add_cancel (Nat.le_of_not_lt hik)]

/-- The `off8` field holds every offset in -128..127 (R76). -/
theorem sext8_off8 {off : Int} (h : -128 ≤ off) (h' : off ≤ 127) : sext8 (off8 off) = off := by
  unfold sext8 off8
  split <;> omega

@[simp] theorem ofOrd_ord (l : EccLevel) : EccLevel.ofOrd l.ord = l := by
  cases l <;> rfl

theorem ord_lt (l : EccLevel) : l.ord < 4 := by
  cases l <;> decide

theorem immV_lt (ver : Nat) (l : EccLevel) : immV ver l < 4096 := by
  have := ord_lt l
  unfold immV
  omega

theorem immT_lt (off : Int) (inv : Bool) : immT off inv < 4096 := by
  unfold immT off8
  cases inv <;> simp <;> omega

end Sys2Proof
end

