-- ==== Sys2Proof/Laws/State.lean ====
section
/-!
SUPPORT. What every state update does to every field, one lemma per field per update, each true by definition.
-/

namespace Sys2Proof.Machine

/-! ## `setReg` -/

@[simp] theorem setReg_regs (s : State) (i : Reg) (v : Word) : (s.setReg i v).regs = s.regs.set i.val v i.isLt := rfl
@[simp] theorem setReg_exp (s : State) (i : Reg) (v : Word) : (s.setReg i v).exp = s.exp := rfl
@[simp] theorem setReg_log (s : State) (i : Reg) (v : Word) : (s.setReg i v).log = s.log := rfl
@[simp] theorem setReg_tblRdy (s : State) (i : Reg) (v : Word) : (s.setReg i v).tblRdy = s.tblRdy := rfl
@[simp] theorem setReg_mem (s : State) (i : Reg) (v : Word) : (s.setReg i v).mem = s.mem := rfl
@[simp] theorem setReg_run (s : State) (i : Reg) (v : Word) : (s.setReg i v).run = s.run := rfl
@[simp] theorem setReg_err (s : State) (i : Reg) (v : Word) : (s.setReg i v).err = s.err := rfl
@[simp] theorem setReg_errCmd (s : State) (i : Reg) (v : Word) : (s.setReg i v).errCmd = s.errCmd := rfl
@[simp] theorem setReg_errAux (s : State) (i : Reg) (v : Word) : (s.setReg i v).errAux = s.errAux := rfl
@[simp] theorem setReg_fmtMask (s : State) (i : Reg) (v : Word) : (s.setReg i v).fmtMask = s.fmtMask := rfl
@[simp] theorem setReg_imgW (s : State) (i : Reg) (v : Word) : (s.setReg i v).imgW = s.imgW := rfl
@[simp] theorem setReg_imgH (s : State) (i : Reg) (v : Word) : (s.setReg i v).imgH = s.imgH := rfl
@[simp] theorem setReg_imgFmt (s : State) (i : Reg) (v : Word) : (s.setReg i v).imgFmt = s.imgFmt := rfl
@[simp] theorem setReg_thrCfg (s : State) (i : Reg) (v : Word) : (s.setReg i v).thrCfg = s.thrCfg := rfl
@[simp] theorem setReg_memBytes (s : State) (i : Reg) (v : Word) : (s.setReg i v).memBytes = s.memBytes := rfl
@[simp] theorem setReg_blkTab (s : State) (i : Reg) (v : Word) : (s.setReg i v).blkTab = s.blkTab := rfl
@[simp] theorem setReg_port (s : State) (i : Reg) (v : Word) : (s.setReg i v).port = s.port := rfl
@[simp] theorem setReg_reply (s : State) (i : Reg) (v : Word) : (s.setReg i v).reply = s.reply := rfl

/-! ## `setElem` -/

@[simp] theorem setElem_regs (s : State) (i : Reg) (v : Byte) : (s.setElem i v).regs = s.regs.set i.val (v.setWidth 32) i.isLt := rfl
@[simp] theorem setElem_exp (s : State) (i : Reg) (v : Byte) : (s.setElem i v).exp = s.exp := rfl
@[simp] theorem setElem_log (s : State) (i : Reg) (v : Byte) : (s.setElem i v).log = s.log := rfl
@[simp] theorem setElem_tblRdy (s : State) (i : Reg) (v : Byte) : (s.setElem i v).tblRdy = s.tblRdy := rfl
@[simp] theorem setElem_mem (s : State) (i : Reg) (v : Byte) : (s.setElem i v).mem = s.mem := rfl
@[simp] theorem setElem_run (s : State) (i : Reg) (v : Byte) : (s.setElem i v).run = s.run := rfl
@[simp] theorem setElem_err (s : State) (i : Reg) (v : Byte) : (s.setElem i v).err = s.err := rfl
@[simp] theorem setElem_errCmd (s : State) (i : Reg) (v : Byte) : (s.setElem i v).errCmd = s.errCmd := rfl
@[simp] theorem setElem_errAux (s : State) (i : Reg) (v : Byte) : (s.setElem i v).errAux = s.errAux := rfl
@[simp] theorem setElem_fmtMask (s : State) (i : Reg) (v : Byte) : (s.setElem i v).fmtMask = s.fmtMask := rfl
@[simp] theorem setElem_imgW (s : State) (i : Reg) (v : Byte) : (s.setElem i v).imgW = s.imgW := rfl
@[simp] theorem setElem_imgH (s : State) (i : Reg) (v : Byte) : (s.setElem i v).imgH = s.imgH := rfl
@[simp] theorem setElem_imgFmt (s : State) (i : Reg) (v : Byte) : (s.setElem i v).imgFmt = s.imgFmt := rfl
@[simp] theorem setElem_thrCfg (s : State) (i : Reg) (v : Byte) : (s.setElem i v).thrCfg = s.thrCfg := rfl
@[simp] theorem setElem_memBytes (s : State) (i : Reg) (v : Byte) : (s.setElem i v).memBytes = s.memBytes := rfl
@[simp] theorem setElem_blkTab (s : State) (i : Reg) (v : Byte) : (s.setElem i v).blkTab = s.blkTab := rfl
@[simp] theorem setElem_port (s : State) (i : Reg) (v : Byte) : (s.setElem i v).port = s.port := rfl
@[simp] theorem setElem_reply (s : State) (i : Reg) (v : Byte) : (s.setElem i v).reply = s.reply := rfl

/-! ## `setBytes` -/

@[simp] theorem setBytes_regs (s : State) (a : Nat) (bs : List Byte) : (s.setBytes a bs).regs = s.regs := rfl
@[simp] theorem setBytes_exp (s : State) (a : Nat) (bs : List Byte) : (s.setBytes a bs).exp = s.exp := rfl
@[simp] theorem setBytes_log (s : State) (a : Nat) (bs : List Byte) : (s.setBytes a bs).log = s.log := rfl
@[simp] theorem setBytes_tblRdy (s : State) (a : Nat) (bs : List Byte) : (s.setBytes a bs).tblRdy = s.tblRdy := rfl
@[simp] theorem setBytes_mem (s : State) (a : Nat) (bs : List Byte) : (s.setBytes a bs).mem = s.mem.writeBytes a bs := rfl
@[simp] theorem setBytes_run (s : State) (a : Nat) (bs : List Byte) : (s.setBytes a bs).run = s.run := rfl
@[simp] theorem setBytes_err (s : State) (a : Nat) (bs : List Byte) : (s.setBytes a bs).err = s.err := rfl
@[simp] theorem setBytes_errCmd (s : State) (a : Nat) (bs : List Byte) : (s.setBytes a bs).errCmd = s.errCmd := rfl
@[simp] theorem setBytes_errAux (s : State) (a : Nat) (bs : List Byte) : (s.setBytes a bs).errAux = s.errAux := rfl
@[simp] theorem setBytes_fmtMask (s : State) (a : Nat) (bs : List Byte) : (s.setBytes a bs).fmtMask = s.fmtMask := rfl
@[simp] theorem setBytes_imgW (s : State) (a : Nat) (bs : List Byte) : (s.setBytes a bs).imgW = s.imgW := rfl
@[simp] theorem setBytes_imgH (s : State) (a : Nat) (bs : List Byte) : (s.setBytes a bs).imgH = s.imgH := rfl
@[simp] theorem setBytes_imgFmt (s : State) (a : Nat) (bs : List Byte) : (s.setBytes a bs).imgFmt = s.imgFmt := rfl
@[simp] theorem setBytes_thrCfg (s : State) (a : Nat) (bs : List Byte) : (s.setBytes a bs).thrCfg = s.thrCfg := rfl
@[simp] theorem setBytes_memBytes (s : State) (a : Nat) (bs : List Byte) : (s.setBytes a bs).memBytes = s.memBytes := rfl
@[simp] theorem setBytes_blkTab (s : State) (a : Nat) (bs : List Byte) : (s.setBytes a bs).blkTab = s.blkTab := rfl
@[simp] theorem setBytes_port (s : State) (a : Nat) (bs : List Byte) : (s.setBytes a bs).port = s.port := rfl
@[simp] theorem setBytes_reply (s : State) (a : Nat) (bs : List Byte) : (s.setBytes a bs).reply = s.reply := rfl

/-! ## `setCells` -/

@[simp] theorem setCells_regs (s : State) (cs : List Host.Cell) : (s.setCells cs).regs = s.regs := rfl
@[simp] theorem setCells_exp (s : State) (cs : List Host.Cell) : (s.setCells cs).exp = s.exp := rfl
@[simp] theorem setCells_log (s : State) (cs : List Host.Cell) : (s.setCells cs).log = s.log := rfl
@[simp] theorem setCells_tblRdy (s : State) (cs : List Host.Cell) : (s.setCells cs).tblRdy = s.tblRdy := rfl
@[simp] theorem setCells_mem (s : State) (cs : List Host.Cell) : (s.setCells cs).mem = s.mem.writeAll cs := rfl
@[simp] theorem setCells_run (s : State) (cs : List Host.Cell) : (s.setCells cs).run = s.run := rfl
@[simp] theorem setCells_err (s : State) (cs : List Host.Cell) : (s.setCells cs).err = s.err := rfl
@[simp] theorem setCells_errCmd (s : State) (cs : List Host.Cell) : (s.setCells cs).errCmd = s.errCmd := rfl
@[simp] theorem setCells_errAux (s : State) (cs : List Host.Cell) : (s.setCells cs).errAux = s.errAux := rfl
@[simp] theorem setCells_fmtMask (s : State) (cs : List Host.Cell) : (s.setCells cs).fmtMask = s.fmtMask := rfl
@[simp] theorem setCells_imgW (s : State) (cs : List Host.Cell) : (s.setCells cs).imgW = s.imgW := rfl
@[simp] theorem setCells_imgH (s : State) (cs : List Host.Cell) : (s.setCells cs).imgH = s.imgH := rfl
@[simp] theorem setCells_imgFmt (s : State) (cs : List Host.Cell) : (s.setCells cs).imgFmt = s.imgFmt := rfl
@[simp] theorem setCells_thrCfg (s : State) (cs : List Host.Cell) : (s.setCells cs).thrCfg = s.thrCfg := rfl
@[simp] theorem setCells_memBytes (s : State) (cs : List Host.Cell) : (s.setCells cs).memBytes = s.memBytes := rfl
@[simp] theorem setCells_blkTab (s : State) (cs : List Host.Cell) : (s.setCells cs).blkTab = s.blkTab := rfl
@[simp] theorem setCells_port (s : State) (cs : List Host.Cell) : (s.setCells cs).port = s.port := rfl
@[simp] theorem setCells_reply (s : State) (cs : List Host.Cell) : (s.setCells cs).reply = s.reply := rfl

/-! ## `takeError` -/

@[simp] theorem takeError_regs (s : State) (k : ErrKind) (cmd aux : Word) : (s.takeError k cmd aux).regs = s.regs := rfl
@[simp] theorem takeError_exp (s : State) (k : ErrKind) (cmd aux : Word) : (s.takeError k cmd aux).exp = s.exp := rfl
@[simp] theorem takeError_log (s : State) (k : ErrKind) (cmd aux : Word) : (s.takeError k cmd aux).log = s.log := rfl
@[simp] theorem takeError_tblRdy (s : State) (k : ErrKind) (cmd aux : Word) : (s.takeError k cmd aux).tblRdy = s.tblRdy := rfl
@[simp] theorem takeError_mem (s : State) (k : ErrKind) (cmd aux : Word) : (s.takeError k cmd aux).mem = s.mem := rfl
@[simp] theorem takeError_run (s : State) (k : ErrKind) (cmd aux : Word) : (s.takeError k cmd aux).run = k.target := rfl
@[simp] theorem takeError_err (s : State) (k : ErrKind) (cmd aux : Word) : (s.takeError k cmd aux).err = k.code := rfl
@[simp] theorem takeError_errCmd (s : State) (k : ErrKind) (cmd aux : Word) : (s.takeError k cmd aux).errCmd = cmd := rfl
@[simp] theorem takeError_errAux (s : State) (k : ErrKind) (cmd aux : Word) : (s.takeError k cmd aux).errAux = aux := rfl
@[simp] theorem takeError_fmtMask (s : State) (k : ErrKind) (cmd aux : Word) : (s.takeError k cmd aux).fmtMask = s.fmtMask := rfl
@[simp] theorem takeError_imgW (s : State) (k : ErrKind) (cmd aux : Word) : (s.takeError k cmd aux).imgW = s.imgW := rfl
@[simp] theorem takeError_imgH (s : State) (k : ErrKind) (cmd aux : Word) : (s.takeError k cmd aux).imgH = s.imgH := rfl
@[simp] theorem takeError_imgFmt (s : State) (k : ErrKind) (cmd aux : Word) : (s.takeError k cmd aux).imgFmt = s.imgFmt := rfl
@[simp] theorem takeError_thrCfg (s : State) (k : ErrKind) (cmd aux : Word) : (s.takeError k cmd aux).thrCfg = s.thrCfg := rfl
@[simp] theorem takeError_memBytes (s : State) (k : ErrKind) (cmd aux : Word) : (s.takeError k cmd aux).memBytes = s.memBytes := rfl
@[simp] theorem takeError_blkTab (s : State) (k : ErrKind) (cmd aux : Word) : (s.takeError k cmd aux).blkTab = s.blkTab := rfl
@[simp] theorem takeError_port (s : State) (k : ErrKind) (cmd aux : Word) : (s.takeError k cmd aux).port = s.port := rfl
@[simp] theorem takeError_reply (s : State) (k : ErrKind) (cmd aux : Word) : (s.takeError k cmd aux).reply = s.reply := rfl

/-! ## `acknowledge` -/

@[simp] theorem acknowledge_regs (s : State) : (s.acknowledge).regs = s.regs := rfl
@[simp] theorem acknowledge_exp (s : State) : (s.acknowledge).exp = s.exp := rfl
@[simp] theorem acknowledge_log (s : State) : (s.acknowledge).log = s.log := rfl
@[simp] theorem acknowledge_tblRdy (s : State) : (s.acknowledge).tblRdy = s.tblRdy := rfl
@[simp] theorem acknowledge_mem (s : State) : (s.acknowledge).mem = s.mem := rfl
@[simp] theorem acknowledge_run (s : State) : (s.acknowledge).run = RunState.ready := rfl
@[simp] theorem acknowledge_err (s : State) : (s.acknowledge).err = 0 := rfl
@[simp] theorem acknowledge_errCmd (s : State) : (s.acknowledge).errCmd = 0 := rfl
@[simp] theorem acknowledge_errAux (s : State) : (s.acknowledge).errAux = 0 := rfl
@[simp] theorem acknowledge_fmtMask (s : State) : (s.acknowledge).fmtMask = s.fmtMask := rfl
@[simp] theorem acknowledge_imgW (s : State) : (s.acknowledge).imgW = s.imgW := rfl
@[simp] theorem acknowledge_imgH (s : State) : (s.acknowledge).imgH = s.imgH := rfl
@[simp] theorem acknowledge_imgFmt (s : State) : (s.acknowledge).imgFmt = s.imgFmt := rfl
@[simp] theorem acknowledge_thrCfg (s : State) : (s.acknowledge).thrCfg = s.thrCfg := rfl
@[simp] theorem acknowledge_memBytes (s : State) : (s.acknowledge).memBytes = s.memBytes := rfl
@[simp] theorem acknowledge_blkTab (s : State) : (s.acknowledge).blkTab = s.blkTab := rfl
@[simp] theorem acknowledge_port (s : State) : (s.acknowledge).port = s.port := rfl
@[simp] theorem acknowledge_reply (s : State) : (s.acknowledge).reply = s.reply := rfl

/-! ## `taken` -/

@[simp] theorem taken_regs (s : State) (rest : List HostTx) : (s.taken rest).regs = s.regs := rfl
@[simp] theorem taken_exp (s : State) (rest : List HostTx) : (s.taken rest).exp = s.exp := rfl
@[simp] theorem taken_log (s : State) (rest : List HostTx) : (s.taken rest).log = s.log := rfl
@[simp] theorem taken_tblRdy (s : State) (rest : List HostTx) : (s.taken rest).tblRdy = s.tblRdy := rfl
@[simp] theorem taken_mem (s : State) (rest : List HostTx) : (s.taken rest).mem = s.mem := rfl
@[simp] theorem taken_run (s : State) (rest : List HostTx) : (s.taken rest).run = s.run := rfl
@[simp] theorem taken_err (s : State) (rest : List HostTx) : (s.taken rest).err = s.err := rfl
@[simp] theorem taken_errCmd (s : State) (rest : List HostTx) : (s.taken rest).errCmd = s.errCmd := rfl
@[simp] theorem taken_errAux (s : State) (rest : List HostTx) : (s.taken rest).errAux = s.errAux := rfl
@[simp] theorem taken_fmtMask (s : State) (rest : List HostTx) : (s.taken rest).fmtMask = s.fmtMask := rfl
@[simp] theorem taken_imgW (s : State) (rest : List HostTx) : (s.taken rest).imgW = s.imgW := rfl
@[simp] theorem taken_imgH (s : State) (rest : List HostTx) : (s.taken rest).imgH = s.imgH := rfl
@[simp] theorem taken_imgFmt (s : State) (rest : List HostTx) : (s.taken rest).imgFmt = s.imgFmt := rfl
@[simp] theorem taken_thrCfg (s : State) (rest : List HostTx) : (s.taken rest).thrCfg = s.thrCfg := rfl
@[simp] theorem taken_memBytes (s : State) (rest : List HostTx) : (s.taken rest).memBytes = s.memBytes := rfl
@[simp] theorem taken_blkTab (s : State) (rest : List HostTx) : (s.taken rest).blkTab = s.blkTab := rfl
@[simp] theorem taken_port (s : State) (rest : List HostTx) : (s.taken rest).port = rest := rfl
@[simp] theorem taken_reply (s : State) (rest : List HostTx) : (s.taken rest).reply = Reply.nothing := rfl

/-! ## `resetTx` -/

@[simp] theorem resetTx_regs (s : State) : (s.resetTx).regs = State.reset.regs := rfl
@[simp] theorem resetTx_exp (s : State) : (s.resetTx).exp = State.reset.exp := rfl
@[simp] theorem resetTx_log (s : State) : (s.resetTx).log = State.reset.log := rfl
@[simp] theorem resetTx_tblRdy (s : State) : (s.resetTx).tblRdy = State.reset.tblRdy := rfl
@[simp] theorem resetTx_mem (s : State) : (s.resetTx).mem = s.mem := rfl
@[simp] theorem resetTx_run (s : State) : (s.resetTx).run = State.reset.run := rfl
@[simp] theorem resetTx_err (s : State) : (s.resetTx).err = State.reset.err := rfl
@[simp] theorem resetTx_errCmd (s : State) : (s.resetTx).errCmd = State.reset.errCmd := rfl
@[simp] theorem resetTx_errAux (s : State) : (s.resetTx).errAux = State.reset.errAux := rfl
@[simp] theorem resetTx_fmtMask (s : State) : (s.resetTx).fmtMask = State.reset.fmtMask := rfl
@[simp] theorem resetTx_imgW (s : State) : (s.resetTx).imgW = State.reset.imgW := rfl
@[simp] theorem resetTx_imgH (s : State) : (s.resetTx).imgH = State.reset.imgH := rfl
@[simp] theorem resetTx_imgFmt (s : State) : (s.resetTx).imgFmt = State.reset.imgFmt := rfl
@[simp] theorem resetTx_thrCfg (s : State) : (s.resetTx).thrCfg = State.reset.thrCfg := rfl
@[simp] theorem resetTx_memBytes (s : State) : (s.resetTx).memBytes = s.memBytes := rfl
@[simp] theorem resetTx_blkTab (s : State) : (s.resetTx).blkTab = s.blkTab := rfl
@[simp] theorem resetTx_port (s : State) : (s.resetTx).port = s.port := rfl
@[simp] theorem resetTx_reply (s : State) : (s.resetTx).reply = s.reply := rfl

/-! ## `withFetchWord` -/

@[simp] theorem withFetchWord_regs (s : State) (n w : Nat) : (s.withFetchWord n w).regs = s.regs := rfl
@[simp] theorem withFetchWord_exp (s : State) (n w : Nat) : (s.withFetchWord n w).exp = s.exp := rfl
@[simp] theorem withFetchWord_log (s : State) (n w : Nat) : (s.withFetchWord n w).log = s.log := rfl
@[simp] theorem withFetchWord_tblRdy (s : State) (n w : Nat) : (s.withFetchWord n w).tblRdy = s.tblRdy := rfl
@[simp] theorem withFetchWord_mem (s : State) (n w : Nat) : (s.withFetchWord n w).mem = s.mem := rfl
@[simp] theorem withFetchWord_run (s : State) (n w : Nat) : (s.withFetchWord n w).run = s.run := rfl
@[simp] theorem withFetchWord_err (s : State) (n w : Nat) : (s.withFetchWord n w).err = s.err := rfl
@[simp] theorem withFetchWord_errCmd (s : State) (n w : Nat) : (s.withFetchWord n w).errCmd = s.errCmd := rfl
@[simp] theorem withFetchWord_errAux (s : State) (n w : Nat) : (s.withFetchWord n w).errAux = s.errAux := rfl
@[simp] theorem withFetchWord_fmtMask (s : State) (n w : Nat) : (s.withFetchWord n w).fmtMask = s.fmtMask := rfl
@[simp] theorem withFetchWord_imgW (s : State) (n w : Nat) : (s.withFetchWord n w).imgW = s.imgW := rfl
@[simp] theorem withFetchWord_imgH (s : State) (n w : Nat) : (s.withFetchWord n w).imgH = s.imgH := rfl
@[simp] theorem withFetchWord_imgFmt (s : State) (n w : Nat) : (s.withFetchWord n w).imgFmt = s.imgFmt := rfl
@[simp] theorem withFetchWord_thrCfg (s : State) (n w : Nat) : (s.withFetchWord n w).thrCfg = s.thrCfg := rfl
@[simp] theorem withFetchWord_memBytes (s : State) (n w : Nat) : (s.withFetchWord n w).memBytes = s.memBytes := rfl
@[simp] theorem withFetchWord_blkTab (s : State) (n w : Nat) : (s.withFetchWord n w).blkTab = s.blkTab := rfl
@[simp] theorem withFetchWord_port (s : State) (n w : Nat) : (s.withFetchWord n w).port = HostTx.issue (commandWord n w) :: s.port := rfl
@[simp] theorem withFetchWord_reply (s : State) (n w : Nat) : (s.withFetchWord n w).reply = s.reply := rfl

end Sys2Proof.Machine
end

