-- ==== Sys2Proof/Laws/Memory.lean ====
section
/-!
SUPPORT. The memory laws: what a read gives after a write, and that every memory operation keeps the canonical form
and the bound on the listed addresses.
-/

namespace Sys2Proof.Machine

/-! ## Reading -/

/-- The read of R30: the written byte, else the free power-up byte. -/
theorem Memory.read_eq (m : Memory) (a : Nat) : m.read a = (m.lookup a).getD (Config.powerUpByte a) := rfl

/-- Two memories that agree on the listed value at `a` read the same there. -/
theorem Memory.read_congr {m m' : Memory} {a : Nat} (h : m.lookup a = m'.lookup a) : m.read a = m'.read a := by
  rw [Memory.read_eq, Memory.read_eq, h]

@[simp] theorem Memory.readBytes_length (m : Memory) (base n : Nat) : (m.readBytes base n).length = n := by
  simp [Memory.readBytes]

@[simp] theorem Memory.readBytes_getElem (m : Memory) (base n i : Nat) (h : i < (m.readBytes base n).length) :
    (m.readBytes base n)[i] = m.read (base + i) := by
  simp [Memory.readBytes]

/-! ## The cells of consecutive bytes -/

@[simp] theorem cellsFrom_length (base : Nat) (bs : List Byte) : (cellsFrom base bs).length = bs.length := by
  induction bs generalizing base with
  | nil => rfl
  | cons b bs ih => simp [cellsFrom, ih]

/-- The cells lie in the range they are made for. -/
theorem mem_cellsFrom {base : Nat} {bs : List Byte} {c : Host.Cell} (h : c ∈ cellsFrom base bs) :
    base ≤ c.1 ∧ c.1 < base + bs.length := by
  induction bs generalizing base with
  | nil => simp [cellsFrom] at h
  | cons b bs ih =>
    rcases List.mem_cons.mp h with rfl | h
    · simp
    · have := ih h
      simp only [List.length_cons]
      omega

/-- The cells of consecutive bytes are in canonical form. -/
theorem cellsFrom_wf (base : Nat) (bs : List Byte) : (cellsFrom base bs).Pairwise (fun c d => c.1 < d.1) := by
  induction bs generalizing base with
  | nil => exact List.Pairwise.nil
  | cons b bs ih =>
    refine List.Pairwise.cons (fun d hd => ?_) (ih _)
    have := mem_cellsFrom hd
    simp only
    omega

/-- Looking an address up among the cells of consecutive bytes. -/
theorem lookup_cellsFrom (base : Nat) (bs : List Byte) (a : Nat) :
    Memory.lookup (cellsFrom base bs) a = if base ≤ a then bs[a - base]? else none := by
  induction bs generalizing base with
  | nil => simp [Memory.lookup, cellsFrom]
  | cons b bs ih =>
    by_cases h : base = a
    · subst h
      simp [Memory.lookup, cellsFrom]
    · have hih := ih (base + 1)
      simp only [Memory.lookup, cellsFrom] at hih ⊢
      rw [List.find?_cons_of_neg (by simp [h]), hih]
      by_cases h2 : base + 1 ≤ a
      · rw [if_pos h2, if_pos (by omega)]
        obtain ⟨d, hd⟩ : ∃ d, a - base = d + 1 := ⟨a - base - 1, by omega⟩
        rw [hd, show a - (base + 1) = d by omega, List.getElem?_cons_succ]
      · rw [if_neg h2, if_neg (by omega)]

/-! ## Writing -/

/-- A filter that keeps `a` does not disturb the lookup of `a`. -/
theorem lookup_filter_of_keeps (m : Memory) (p : Host.Cell → Bool) (a : Nat) (h : ∀ c : Host.Cell, c.1 = a → p c = true) :
    Memory.lookup (m.filter p) a = m.lookup a := by
  induction m with
  | nil => rfl
  | cons c m ih =>
    simp only [Memory.lookup] at ih ⊢
    by_cases hc : c.1 = a
    · rw [List.filter_cons_of_pos (h c hc), List.find?_cons_of_pos (by simp [hc]), List.find?_cons_of_pos (by simp [hc])]
    · by_cases hp : p c = true
      · rw [List.filter_cons_of_pos hp, List.find?_cons_of_neg (by simp [hc]), List.find?_cons_of_neg (by simp [hc]), ih]
      · rw [List.filter_cons_of_neg hp, List.find?_cons_of_neg (by simp [hc]), ih]

/-- A filter that drops `a` leaves no value there. -/
theorem lookup_filter_of_drops (m : Memory) (p : Host.Cell → Bool) (a : Nat) (h : ∀ c : Host.Cell, c.1 = a → p c = false) :
    Memory.lookup (m.filter p) a = none := by
  simp only [Memory.lookup, Option.map_eq_none_iff, List.find?_eq_none, List.mem_filter]
  rintro c ⟨-, hc⟩ ha
  rw [h c (by simpa using ha)] at hc
  exact Bool.noConfusion hc

/-- Looking up in one memory after another. -/
theorem lookup_append (m m' : Memory) (a : Nat) :
    Memory.lookup (m ++ m') a = (m.lookup a).or (Memory.lookup m' a) := by
  simp only [Memory.lookup, List.find?_append]
  cases List.find? (fun c => c.1 == a) m <;> simp

/-- READ AFTER WRITE, everything a write does: inside the range the new byte, outside the old value. -/
theorem Memory.lookup_writeBytes (m : Memory) (base : Nat) (bs : List Byte) (a : Nat) :
    (m.writeBytes base bs).lookup a =
      if base ≤ a ∧ a < base + bs.length then bs[a - base]? else m.lookup a := by
  unfold Memory.writeBytes
  rw [lookup_append, lookup_append, lookup_cellsFrom]
  by_cases h1 : base ≤ a
  · rw [lookup_filter_of_drops m _ a (by intro c hc; simp; omega)]
    by_cases h2 : a < base + bs.length
    · rw [lookup_filter_of_drops m _ a (by intro c hc; simp; omega)]
      simp [h1, h2]
    · rw [lookup_filter_of_keeps m _ a (by intro c hc; simp; omega)]
      simp [h1, h2, List.getElem?_eq_none (by omega : bs.length ≤ a - base)]
  · rw [lookup_filter_of_keeps m _ a (by intro c hc; simp; omega),
      lookup_filter_of_drops m _ a (by intro c hc; simp; omega)]
    simp [h1]

/-- A byte read back inside the range written. -/
theorem Memory.read_writeBytes_inside (m : Memory) (base : Nat) (bs : List Byte) (i : Nat) (h : i < bs.length) :
    (m.writeBytes base bs).read (base + i) = bs[i] := by
  rw [Memory.read_eq, Memory.lookup_writeBytes, if_pos ⟨by omega, by omega⟩]
  simp [h]

/-- A byte outside the range written. -/
theorem Memory.read_writeBytes_outside (m : Memory) (base : Nat) (bs : List Byte) (a : Nat)
    (h : a < base ∨ base + bs.length ≤ a) : (m.writeBytes base bs).read a = m.read a := by
  refine Memory.read_congr ?_
  rw [Memory.lookup_writeBytes, if_neg (by omega)]

/-- A write of consecutive bytes keeps the canonical form. -/
theorem Memory.writeBytes_wf {m : Memory} (h : m.wf) (base : Nat) (bs : List Byte) : (m.writeBytes base bs).wf := by
  have hmid := cellsFrom_wf base bs
  unfold Memory.writeBytes Memory.wf
  simp only [List.pairwise_append, List.mem_append, List.mem_filter, decide_eq_true_eq]
  refine ⟨⟨h.filter _, hmid, ?_⟩, h.filter _, ?_⟩
  · rintro c ⟨-, hc⟩ d hd
    have := mem_cellsFrom hd
    omega
  · rintro c (⟨-, hc⟩ | hc) d ⟨-, hd⟩
    · omega
    · have := mem_cellsFrom hc
      omega

/-- A write of consecutive bytes below a bound keeps every listed address below it. -/
theorem Memory.writeBytes_bounded {m : Memory} {n : Nat} (h : ∀ c ∈ m, c.1 < n) (base : Nat) (bs : List Byte)
    (hb : base + bs.length ≤ n) : ∀ c ∈ m.writeBytes base bs, c.1 < n := by
  intro c hc
  unfold Memory.writeBytes at hc
  simp only [List.mem_append, List.mem_filter] at hc
  rcases hc with (⟨hc, -⟩ | hc) | ⟨hc, -⟩
  · exact h c hc
  · have := mem_cellsFrom hc
    omega
  · exact h c hc

@[simp] theorem Memory.writeAll_nil (m : Memory) : m.writeAll [] = m := rfl

@[simp] theorem Memory.writeAll_cons (m : Memory) (c : Host.Cell) (cs : List Host.Cell) :
    m.writeAll (c :: cs) = (m.write c.1 c.2).writeAll cs := rfl

/-- Looking up after one byte is written. -/
theorem Memory.lookup_write (m : Memory) (b : Nat) (v : Byte) (a : Nat) :
    (m.write b v).lookup a = if a = b then some v else m.lookup a := by
  unfold Memory.write
  rw [Memory.lookup_writeBytes]
  by_cases h : a = b
  · subst h
    simp
  · rw [if_neg (by simp only [List.length_cons, List.length_nil]; omega), if_neg h]

/-- A list of writes leaves every address that is not among them alone. -/
theorem Memory.lookup_writeAll_outside (m : Memory) (cs : List Host.Cell) (a : Nat) (h : ∀ c ∈ cs, c.1 ≠ a) :
    (m.writeAll cs).lookup a = m.lookup a := by
  induction cs generalizing m with
  | nil => rfl
  | cons c cs ih =>
    rw [Memory.writeAll_cons, ih _ (fun d hd => h d (List.mem_cons_of_mem _ hd)), Memory.lookup_write,
      if_neg (Ne.symm (h c List.mem_cons_self))]

/-- A list of writes to different addresses leaves the byte of each pair at its address. -/
theorem Memory.lookup_writeAll_inside (m : Memory) (cs : List Host.Cell) (hd : (cs.map (·.1)).Nodup) (c : Host.Cell)
    (hc : c ∈ cs) : (m.writeAll cs).lookup c.1 = some c.2 := by
  induction cs generalizing m with
  | nil => simp at hc
  | cons d cs ih =>
    rw [List.map_cons, List.nodup_cons] at hd
    rw [Memory.writeAll_cons]
    rcases List.mem_cons.mp hc with rfl | hc
    · rw [Memory.lookup_writeAll_outside, Memory.lookup_write, if_pos rfl]
      intro e he heq
      exact hd.1 (heq ▸ List.mem_map_of_mem he)
    · exact ih _ hd.2 hc

/-- A list of writes keeps the canonical form. -/
theorem Memory.writeAll_wf {m : Memory} (h : m.wf) (cs : List Host.Cell) : (m.writeAll cs).wf := by
  induction cs generalizing m with
  | nil => exact h
  | cons c cs ih => exact ih (Memory.writeBytes_wf h _ _)

/-- A list of writes below a bound keeps every listed address below it. -/
theorem Memory.writeAll_bounded {m : Memory} {n : Nat} (h : ∀ c ∈ m, c.1 < n) (cs : List Host.Cell)
    (hb : ∀ c ∈ cs, c.1 < n) : ∀ c ∈ m.writeAll cs, c.1 < n := by
  induction cs generalizing m with
  | nil => exact h
  | cons c cs ih =>
    refine ih (Memory.writeBytes_bounded h _ _ ?_) (fun d hd => hb d (List.mem_cons_of_mem _ hd))
    have := hb c List.mem_cons_self
    simpa using this

end Sys2Proof.Machine
end

