-- ==== Sys2Proof/Laws/Ops.lean ====
section
/-!
SUPPORT. For each shared operation, one lemma that says everything it can do; proofs cite these and do not unfold the
operations.
-/

namespace Sys2Proof.Machine

/-! ## Registers -/

/-- Reading a register after a register is written. -/
theorem reg_setReg (s : State) (i j : Reg) (v : Word) : (s.setReg i v).reg j = if j = i then v else s.reg j := by
  unfold State.reg State.setReg
  by_cases h : j = i
  · subst h
    simp
  · rw [if_neg h]
    exact Vector.getElem_set_ne (xs := s.regs) i.isLt j.isLt (fun h' => h (Fin.ext h'.symm))

@[simp] theorem reg_setReg_self (s : State) (i : Reg) (v : Word) : (s.setReg i v).reg i = v := by
  rw [reg_setReg, if_pos rfl]

theorem reg_setReg_of_ne (s : State) {i j : Reg} (h : j ≠ i) (v : Word) : (s.setReg i v).reg j = s.reg j := by
  rw [reg_setReg, if_neg h]

/-- A register read depends on the register file alone. -/
theorem reg_congr {s t : State} (h : s.regs = t.regs) (i : Reg) : s.reg i = t.reg i := by
  unfold State.reg
  rw [h]

/-- Writing a field element is writing its zero extension (R104). -/
theorem setElem_eq (s : State) (i : Reg) (v : Byte) : s.setElem i v = s.setReg i (v.setWidth 32) := rfl

/-- A field element operand is the low byte of the register (R104). -/
theorem elem_eq (s : State) (i : Reg) : s.elem i = (s.reg i).setWidth 8 := rfl

/-- Every reset register is 0 (R22). -/
@[simp] theorem reg_reset (i : Reg) : State.reset.reg i = 0 := by
  simp [State.reg, State.reset]

/-! ## Memory -/

@[simp] theorem byteAt_eq (s : State) (a : Nat) : s.byteAt a = s.mem.read a := rfl

@[simp] theorem bytesAt_length (s : State) (a n : Nat) : (s.bytesAt a n).length = n := Memory.readBytes_length _ _ _

/-- A byte of memory after consecutive bytes are written. -/
theorem byteAt_setBytes (s : State) (base : Nat) (bs : List Byte) (a : Nat) :
    (s.setBytes base bs).byteAt a =
      if h : base ≤ a ∧ a < base + bs.length then bs[a - base]'(by omega) else s.byteAt a := by
  simp only [byteAt_eq, setBytes_mem]
  split
  next h =>
    obtain ⟨i, rfl⟩ : ∃ i, a = base + i := ⟨a - base, by omega⟩
    rw [Memory.read_writeBytes_inside _ _ _ _ (by omega)]
    simp
  next h => exact Memory.read_writeBytes_outside _ _ _ _ (by omega)

/-- A byte of memory that no pair of the list names. -/
theorem byteAt_setCells_outside (s : State) (cs : List Host.Cell) (a : Nat) (h : ∀ c ∈ cs, c.1 ≠ a) :
    (s.setCells cs).byteAt a = s.byteAt a :=
  Memory.read_congr (Memory.lookup_writeAll_outside _ _ _ h)

/-- A byte of memory that a pair of the list names, the addresses being different. -/
theorem byteAt_setCells_inside (s : State) (cs : List Host.Cell) (hd : (cs.map (·.1)).Nodup) (c : Host.Cell)
    (hc : c ∈ cs) : (s.setCells cs).byteAt c.1 = c.2 := by
  rw [byteAt_eq, Memory.read_eq, setCells_mem, Memory.lookup_writeAll_inside _ _ hd c hc]
  rfl

/-- The bounds check (R55). -/
@[simp] theorem inBounds_iff (s : State) (base len : Nat) : s.inBounds base len = true ↔ base + len ≤ s.memBytes := by
  simp [State.inBounds]

/-- The overlap check passes exactly when the ranges share no byte (R56). -/
theorem overlap_eq_false_iff (a la b lb : Nat) : overlap a la b lb = false ↔ disjoint a la b lb := by
  simp only [overlap, disjoint, Bool.and_eq_false_iff, decide_eq_false_iff_not]
  omega

/-! ## Errors -/

/-- A typed failure is the shared entry with `ERRAUX = 0` (R214). -/
theorem fail_eq (s : State) (i : Instr) (k : ErrKind) : s.fail i k = .next (s.takeError k (encode i) 0) := rfl

/-- A fatal defect is the shared entry (R215). -/
theorem defect_eq (s : State) (i : Instr) (k : ErrKind) (aux : Word) :
    s.defect i k aux = .next (s.takeError k (encode i) aux) := rfl

/-- Taking an error always leaves `READY` (R210). -/
theorem target_ne_ready (k : ErrKind) : k.target ≠ .ready := by
  cases k <;> decide

/-- No kind has code 0 (R211). -/
theorem code_ne_zero (k : ErrKind) : k.code ≠ 0 := by
  cases k <;> decide

/-! ## CSRs -/

/-- A configuration write, or an ignored write, in a `STATE` that is not `FAILED` changes only the configuration CSRs. -/
theorem setCsr_frame (s : State) (a : Nat) (v : Word) (h : a ≠ 1 ∨ s.run ≠ .failed) :
    s.setCsr a v = { s with
      fmtMask := if a = 4 then v &&& fmtMaskBits else s.fmtMask
      imgW := if a = 5 then v &&& imgSideBits else s.imgW
      imgH := if a = 6 then v &&& imgSideBits else s.imgH
      imgFmt := if a = 7 then v &&& imgFmtBits else s.imgFmt
      thrCfg := if a = 8 then v &&& thrCfgBits else s.thrCfg } := by
  unfold State.setCsr
  split <;> simp_all

/-! ## One step -/

/-- With no transaction pending the block is idle (R242). -/
theorem step_idle {s : State} (h : s.port = []) : step s = .next s := by
  simp [step, h]

/-- One step carries out the next transaction (R232). -/
theorem step_transact {s : State} {tx : HostTx} {rest : List HostTx} (h : s.port = tx :: rest) :
    step s = (s.taken rest).transact tx := by
  simp [step, h]

/-- The state `withFetchWord` makes issues that word next. -/
theorem step_withFetchWord (s : State) (n w : Nat) :
    step (s.withFetchWord n w) = ((s.withFetchWord n w).taken s.port).issue (commandWord n w) := rfl

end Sys2Proof.Machine
end

