-- ==== Sys2Proof/Laws/PerInstr.lean ====
section
/-!
SUPPORT. Families of lemmas with one lemma per command, about the command as syntax.
-/

namespace Sys2Proof.Laws

/-- The opcode R77 assigns to a command. -/
def opcodeOf : Instr → Nat
  | .gfinit => 0x10
  | .gfadd _ _ _ => 0x11
  | .gfmul _ _ _ => 0x12
  | .gfdiv _ _ _ => 0x13
  | .gfinv _ _ => 0x14
  | .gfpow _ _ _ => 0x15
  | .gfexp _ _ => 0x16
  | .gflog _ _ => 0x17
  | .rsenc _ _ _ => 0x20
  | .rsdec _ _ _ _ => 0x21
  | .bchfmt _ _ _ => 0x30
  | .bchver _ _ => 0x31
  | .blkinfo _ _ _ => 0x40
  | .deintl _ _ _ _ _ => 0x41
  | .intl _ _ _ _ _ => 0x42
  | .thresh _ _ _ _ => 0x50

/-- The opcode byte of a word of formats Z, R3, R2, V and T. -/
theorem slice_op_fields (op : Nat) (f1 ra rb : Reg) (imm : Nat) (ho : op < 256) (hi : imm < 4096) :
    slice (fields op f1 ra rb imm) 31 24 = op := by
  unfold slice
  rw [fields_toNat ho f1.isLt ra.isLt rb.isLt hi]
  have := f1.isLt; have := ra.isLt; have := rb.isLt
  omega

/-- The opcode byte of a word of format M. -/
theorem slice_op_fieldsM (op : Nat) (f1 ra : Reg) (n k : Nat) (ho : op < 256) :
    slice (fieldsM op f1 ra n k) 31 24 = op := by
  unfold slice
  rw [fieldsM_toNat ho f1.isLt ra.isLt]
  have := f1.isLt; have := ra.isLt
  omega

/-- The word of a command, its immediates cut to their fields, carries the opcode of its row (R70, R77). -/
def OpcodeByte.Statement (i : Instr) : Prop := slice (encode i) 31 24 = opcodeOf i

theorem OpcodeByte.gfinit : OpcodeByte.Statement .gfinit :=
  slice_op_fields 0x10 0 0 0 0 (by decide) (by decide)

theorem OpcodeByte.gfadd (rd ra rb : Reg) : OpcodeByte.Statement (.gfadd rd ra rb) :=
  slice_op_fields 0x11 rd ra rb 0 (by decide) (by decide)

theorem OpcodeByte.gfmul (rd ra rb : Reg) : OpcodeByte.Statement (.gfmul rd ra rb) :=
  slice_op_fields 0x12 rd ra rb 0 (by decide) (by decide)

theorem OpcodeByte.gfdiv (rd ra rb : Reg) : OpcodeByte.Statement (.gfdiv rd ra rb) :=
  slice_op_fields 0x13 rd ra rb 0 (by decide) (by decide)

theorem OpcodeByte.gfinv (rd ra : Reg) : OpcodeByte.Statement (.gfinv rd ra) :=
  slice_op_fields 0x14 rd ra 0 0 (by decide) (by decide)

theorem OpcodeByte.gfpow (rd ra rb : Reg) : OpcodeByte.Statement (.gfpow rd ra rb) :=
  slice_op_fields 0x15 rd ra rb 0 (by decide) (by decide)

theorem OpcodeByte.gfexp (rd ra : Reg) : OpcodeByte.Statement (.gfexp rd ra) :=
  slice_op_fields 0x16 rd ra 0 0 (by decide) (by decide)

theorem OpcodeByte.gflog (rd ra : Reg) : OpcodeByte.Statement (.gflog rd ra) :=
  slice_op_fields 0x17 rd ra 0 0 (by decide) (by decide)

theorem OpcodeByte.rsenc (ra : Reg) (n k : Nat) : OpcodeByte.Statement (.rsenc ra n k) :=
  slice_op_fieldsM 0x20 0 ra n k (by decide)

theorem OpcodeByte.rsdec (rd ra : Reg) (n k : Nat) : OpcodeByte.Statement (.rsdec rd ra n k) :=
  slice_op_fieldsM 0x21 rd ra n k (by decide)

theorem OpcodeByte.bchfmt (rd ra rb : Reg) : OpcodeByte.Statement (.bchfmt rd ra rb) :=
  slice_op_fields 0x30 rd ra rb 0 (by decide) (by decide)

theorem OpcodeByte.bchver (rd ra : Reg) : OpcodeByte.Statement (.bchver rd ra) :=
  slice_op_fields 0x31 rd ra 0 0 (by decide) (by decide)

theorem OpcodeByte.blkinfo (rd : Reg) (ver : Nat) (lvl : EccLevel) : OpcodeByte.Statement (.blkinfo rd ver lvl) :=
  slice_op_fields 0x40 rd 0 0 (immV ver lvl) (by decide) (immV_lt ver lvl)

theorem OpcodeByte.deintl (rl ra rb : Reg) (ver : Nat) (lvl : EccLevel) :
    OpcodeByte.Statement (.deintl rl ra rb ver lvl) :=
  slice_op_fields 0x41 rl ra rb (immV ver lvl) (by decide) (immV_lt ver lvl)

theorem OpcodeByte.intl (rl ra rb : Reg) (ver : Nat) (lvl : EccLevel) :
    OpcodeByte.Statement (.intl rl ra rb ver lvl) :=
  slice_op_fields 0x42 rl ra rb (immV ver lvl) (by decide) (immV_lt ver lvl)

theorem OpcodeByte.thresh (ra rb : Reg) (off : Int) (inv : Bool) : OpcodeByte.Statement (.thresh ra rb off inv) :=
  slice_op_fields 0x50 0 ra rb (immT off inv) (by decide) (immT_lt off inv)

end Sys2Proof.Laws
end

