-- ==== Sys2Proof/Tests/Slice0.lean ====
section
/-!
SUPPORT. Tests, and for every obligation with hypotheses a concrete state and operands that meet them.

Expected results come from the vectors of spec/95_test_vectors.md (their ids stand in the docstrings) and from the
encodings of spec/30_encoding.md; none was produced by this model.
-/

namespace Sys2Proof.Tests

set_option Elab.async false

open Sys2Proof Sys2Proof.Machine

/-! ## Helpers -/

/-- The result is a next state with the property `p`. -/
def nextSat (r : Result) (p : State → Bool) : Bool :=
  match r with
  | .next t => p t
  | .fault _ => false
  | .refused _ => false

/-- A checked result gives the next state a statement speaks of. -/
theorem exists_next {r : Result} {p : State → Bool} (h : nextSat r p = true) : ∃ t, r = .next t ∧ p t = true := by
  cases r with
  | next t => exact ⟨t, rfl, h⟩
  | fault _ => cases h
  | refused _ => cases h

/-- The state with these registers. -/
def withRegs (l : List (Reg × Word)) (s : State) : State := l.foldl (fun s p => s.setReg p.1 p.2) s

/-- The state with these bytes from `base` upward and nothing else in memory. -/
def withBytes (base : Nat) (l : List Nat) (s : State) : State := { s with mem := cellsFrom base (l.map (BitVec.ofNat 8)) }

/-- After `Reset()` and `GFINIT`. -/
def started : State := { State.reset with exp := genExp, log := genLog, tblRdy := true }

/-- A state in `FAILED`: the record of H1. -/
def failed : State := { started with run := .failed, err := 4, errCmd := 0x30312000 }

/-- A state in `FATAL`: the record of H2. -/
def fatal : State := { started with run := .fatal, err := 0x81, errCmd := 0x14310000 }

/-- The state records exactly this error; registers and memory are those of `s`. -/
def errorIs (s : State) (run : RunState) (err cmd aux : Word) (t : State) : Bool :=
  t.run == run && t.err == err && t.errCmd == cmd && t.errAux == aux && t.regs == s.regs && t.mem == s.mem

/-- The bytes of a list of numbers. -/
def bytes (l : List Nat) : List Byte := l.map (BitVec.ofNat 8)

/-! ## WellFormed refuses what the encoding cannot hold -/

theorem test_wf_refuses_rsenc_n : Instr.wf (.rsenc 4 256 10) = false := by decide
theorem test_wf_refuses_rsenc_k : Instr.wf (.rsenc 4 26 256) = false := by decide
theorem test_wf_refuses_rsdec_n : Instr.wf (.rsdec 3 4 256 10) = false := by decide
theorem test_wf_refuses_rsdec_k : Instr.wf (.rsdec 3 4 26 256) = false := by decide
theorem test_wf_refuses_blkinfo_ver : Instr.wf (.blkinfo 1 64 .L) = false := by decide
theorem test_wf_refuses_deintl_ver : Instr.wf (.deintl 1 2 3 64 .Q) = false := by decide
theorem test_wf_refuses_intl_ver : Instr.wf (.intl 1 2 3 64 .Q) = false := by decide
theorem test_wf_refuses_thresh_off_high : Instr.wf (.thresh 1 2 128 false) = false := by decide
theorem test_wf_refuses_thresh_off_low : Instr.wf (.thresh 1 2 (-129) false) = false := by decide

/-! ## Decoding the words the spec writes out -/

/-- R95 -/
theorem test_decode_gfinit : decode 0x10000000#32 = .ok .gfinit := by decide
/-- G1 -/
theorem test_decode_gfadd : decode 0x11312000#32 = .ok (.gfadd 3 1 2) := by decide
/-- G4 -/
theorem test_decode_gfmul : decode 0x12312000#32 = .ok (.gfmul 3 1 2) := by decide
/-- P1: `GFDIV r4, r3, r2` -/
theorem test_decode_gfdiv : decode 0x13432000#32 = .ok (.gfdiv 4 3 2) := by decide
/-- P1: `GFINV r5, r1` -/
theorem test_decode_gfinv : decode 0x14510000#32 = .ok (.gfinv 5 1) := by decide
/-- P1: `GFPOW r12, r1, r8` -/
theorem test_decode_gfpow : decode 0x15C18000#32 = .ok (.gfpow 12 1 8) := by decide
/-- P1: `GFEXP r10, r9` -/
theorem test_decode_gfexp : decode 0x16A90000#32 = .ok (.gfexp 10 9) := by decide
/-- P1: `GFLOG r8, r2` -/
theorem test_decode_gflog : decode 0x17820000#32 = .ok (.gflog 8 2) := by decide
/-- P3: `RSENC [r6], 33, 18` -/
theorem test_decode_rsenc : decode 0x20062112#32 = .ok (.rsenc 6 33 18) := by decide
/-- P3: `RSDEC r11, [r6], 33, 18` -/
theorem test_decode_rsdec : decode 0x21B62112#32 = .ok (.rsdec 11 6 33 18) := by decide
/-- P3: `BCHFMT r3, r1, r2` -/
theorem test_decode_bchfmt : decode 0x30312000#32 = .ok (.bchfmt 3 1 2) := by decide
/-- section 4.4: `BCHVER r2, r1` -/
theorem test_decode_bchver : decode 0x31210000#32 = .ok (.bchver 2 1) := by decide
/-- I11: `BLKINFO r1, 40, H` -/
theorem test_decode_blkinfo : decode 0x401000E8#32 = .ok (.blkinfo 1 40 .H) := by decide
/-- P3: `DEINTL r7, [r9], [r10], 5, Q` -/
theorem test_decode_deintl : decode 0x4179A085#32 = .ok (.deintl 7 9 10 5 .Q) := by decide
/-- P3: `INTL r7, [r8], [r9], 5, Q` -/
theorem test_decode_intl : decode 0x42789085#32 = .ok (.intl 7 8 9 5 .Q) := by decide
/-- P4 (attempt 2) and T10: a negative offset, and the most negative one -/
theorem test_decode_thresh :
    decode 0x500120FB#32 = .ok (.thresh 1 2 (-5) false) ∧ decode 0x50012080#32 = .ok (.thresh 1 2 (-128) false) := by decide
/-- P4, attempt 4: inverted polarity -/
theorem test_decode_thresh_inverted : decode 0x50012100#32 = .ok (.thresh 1 2 0 true) := by decide
/-- GF4 to GF6, RF5, sections 4.2 and 4.4, I15, I16, XF11, TF12, TF13: a must-be-zero field that is not zero -/
theorem test_decode_rejects_mbz :
    ([0x10000001#32, 0x12312001#32, 0x14311000#32, 0x20341A0A#32, 0x30312001#32, 0x31211000#32, 0x40110001#32,
      0x40100101#32, 0x41123182#32, 0x50112000#32, 0x50012200#32] : List Word).all
      (fun w => decide (decode w = .error .nonZeroMustBeZeroField)) = true := by decide
/-- R79: unassigned opcodes -/
theorem test_decode_rejects_unassigned :
    ([0x00000000#32, 0xFFFFFFFF#32, 0x0F000000#32, 0x18000000#32, 0x22000000#32, 0x32000000#32, 0x43000000#32,
      0x51000000#32] : List Word).all (fun w => decide (decode w = .error .unassignedOpcode)) = true := by decide
/-- R82: the encoder writes the word the spec's assembler writes -/
theorem test_encode_words :
    encode (.rsdec 3 4 26 10) = 0x21341A0A#32 ∧ encode (.thresh 1 2 (-5) false) = 0x500120FB#32 ∧
    encode (.blkinfo 1 63 .H) = 0x401000FF#32 ∧ encode (.intl 1 3 4 3 .Q) = 0x42134083#32 := by decide
/-- the host's question, on the word of `GFADD r3, r1, r2` -/
theorem test_decodeTableWord : decodeTableWord 32 0x11312000 = some (.gfadd 3 1 2) := by decide
/-- a placed command is the first one the block runs after reset (R95: `STATUS` is then 0x100) -/
theorem test_withFetchWord :
    nextSat (step (State.reset.withFetchWord 32 0x10000000)) (fun t => t.status == 0x100) = true := by decide +kernel

/-! ## One step of each command -/

/-- section 2.1: entries of the tables -/
theorem test_gfinit : nextSat (exec .gfinit State.reset) (fun t =>
    t.expAt 8 == 0x1d && t.expAt 0x99 == 0x92 && t.expAt 254 == 0x8e && t.exp[255] == 1 &&
    t.logAt 1 == 0 && t.logAt 0x53 == 0xce && t.logAt 0xff == 0xaf) = true := by decide +kernel
/-- GF7 -/
theorem test_gfinit_again : exec .gfinit started = .next started := rfl
/-- G2: only the low bytes count -/
theorem test_gfadd : nextSat (exec (.gfadd 3 1 2) (withRegs [(1, 0x1ff), (2, 0xabcdef00)] started))
    (fun t => t.reg 3 == 0xff) = true := by decide +kernel
/-- G3: both sources the same register -/
theorem test_gfadd_self : nextSat (exec (.gfadd 3 1 1) (withRegs [(1, 0x77)] started))
    (fun t => t.reg 3 == 0 && t.reg 1 == 0x77) = true := by decide +kernel
/-- G11 -/
theorem test_gfmul : nextSat (exec (.gfmul 3 1 2) (withRegs [(1, 0xffffff53), (2, 0x123456ca)] started))
    (fun t => t.reg 3 == 0x8f) = true := by decide +kernel
/-- G12: the destination is also the source -/
theorem test_gfmul_same_register : nextSat (exec (.gfmul 1 1 1) (withRegs [(1, 0x80)] started))
    (fun t => t.reg 1 == 0x13) = true := by decide +kernel
/-- G13: a negative difference of logarithms -/
theorem test_gfdiv : nextSat (exec (.gfdiv 3 1 2) (withRegs [(1, 1), (2, 2)] started))
    (fun t => t.reg 3 == 0x8e) = true := by decide +kernel
/-- G18 -/
theorem test_gfdiv_by_zero : nextSat (exec (.gfdiv 3 1 2) (withRegs [(2, 0x100)] started))
    (errorIs (withRegs [(2, 0x100)] started) .fatal 0x81 0x13312000 0) = true := by decide +kernel
/-- G19 and G22 -/
theorem test_gfinv : nextSat (exec (.gfinv 3 1) (withRegs [(1, 1)] started)) (fun t => t.reg 3 == 1) = true ∧
    nextSat (exec (.gfinv 3 1) (withRegs [(1, 0x53)] started)) (fun t => t.reg 3 == 0x8c) = true := by decide +kernel
/-- G25 -/
theorem test_gfinv_of_zero : nextSat (exec (.gfinv 3 1) (withRegs [(1, 0x100)] started))
    (errorIs (withRegs [(1, 0x100)] started) .fatal 0x81 0x14310000 0) = true := by decide +kernel
/-- G36: the exponent is the whole register -/
theorem test_gfpow : nextSat (exec (.gfpow 3 1 2) (withRegs [(1, 0x1d), (2, 0x80000000)] started))
    (fun t => t.reg 3 == 0x10) = true := by decide +kernel
/-- G33: 0 to the 0 is 1 -/
theorem test_gfpow_zero_zero : nextSat (exec (.gfpow 3 1 2) started) (fun t => t.reg 3 == 1) = true := by decide +kernel
/-- G42: the exponent is reduced modulo 255 -/
theorem test_gfexp : nextSat (exec (.gfexp 3 1) (withRegs [(1, 0x100)] started)) (fun t => t.reg 3 == 2) = true := by
  decide +kernel
/-- G43 -/
theorem test_gfexp_max : nextSat (exec (.gfexp 3 1) (withRegs [(1, 0xffffffff)] started)) (fun t => t.reg 3 == 1) = true := by
  decide +kernel
/-- G50 -/
theorem test_gflog : nextSat (exec (.gflog 3 1) (withRegs [(1, 0x53)] started)) (fun t => t.reg 3 == 0xce) = true := by
  decide +kernel
/-- GF3: the tables are checked before the operand -/
theorem test_gflog_tables_first : nextSat (exec (.gflog 3 1) State.reset)
    (errorIs State.reset .fatal 0x82 0x17310000 0) = true := by decide +kernel

/-- E7 -/
theorem test_rsenc : nextSat (exec (.rsenc 4 8 4) (withRegs [(4, 0x100)] (withBytes 0x100 [1, 2, 3, 4] started)))
    (fun t => t.bytesAt 0x100 8 == bytes [1, 2, 3, 4, 0x75, 0xa3, 0xb2, 0x60]) = true := by decide +kernel
/-- RF4: the parameters are illegal -/
theorem test_rsenc_parameters : nextSat (exec (.rsenc 4 10 26) (withRegs [(4, 0x100)] started))
    (errorIs (withRegs [(4, 0x100)] started) .failed 0x0A 0x20040A1A 0) = true := by decide +kernel
/-- D15: two errors with `k = 4` -/
theorem test_rsdec : nextSat (exec (.rsdec 3 4 8 4)
    (withRegs [(4, 0x100)] (withBytes 0x100 [0x10, 2, 3, 4, 0x75, 0xa3, 0xb2, 0x42] started)))
    (fun t => t.reg 3 == 2 && t.bytesAt 0x100 8 == bytes [1, 2, 3, 4, 0x75, 0xa3, 0xb2, 0x60]) = true := by decide +kernel
/-- D16: three errors, detected -/
theorem test_rsdec_unrecoverable : nextSat (exec (.rsdec 3 4 8 4)
    (withRegs [(4, 0x100)] (withBytes 0x100 [0x10, 2, 3, 0x37, 0x75, 0xa3, 0xb2, 0x42] started)))
    (errorIs (withRegs [(4, 0x100)] (withBytes 0x100 [0x10, 2, 3, 0x37, 0x75, 0xa3, 0xb2, 0x42] started))
      .failed 6 0x21340804 0) = true := by decide +kernel
/-- F8: three and two bit errors -/
theorem test_bchfmt : nextSat (exec (.bchfmt 3 1 2) (withRegs [(1, 0x2fcc), (2, 0x3bef)] started))
    (fun t => t.reg 3 == 0x21f) = true := by decide +kernel
/-- F7: two clean words that do not agree -/
theorem test_bchfmt_mismatch : nextSat (exec (.bchfmt 3 1 2) (withRegs [(1, 0x6318), (2, 0x662f)] started))
    (errorIs (withRegs [(1, 0x6318), (2, 0x662f)] started) .failed 4 0x30312000 0) = true := by decide +kernel
/-- B3: version 40 with three bits flipped -/
theorem test_bchver : nextSat (exec (.bchver 2 1) (withRegs [(1, 0x28d78)] started)) (fun t => t.reg 2 == 40) = true := by
  decide +kernel
/-- B5: a clean word for version 6 -/
theorem test_bchver_version_six : nextSat (exec (.bchver 2 1) (withRegs [(1, 0x63b1)] started))
    (errorIs (withRegs [(1, 0x63b1)] started) .failed 5 0x31210000 0) = true := by decide +kernel
/-- I11 -/
theorem test_blkinfo : nextSat (exec (.blkinfo 1 40 .H) started) (fun t => t.reg 1 == 0x3d0f141e) = true := by
  decide +kernel
/-- I13 -/
theorem test_blkinfo_version : nextSat (exec (.blkinfo 1 41 .M) started)
    (errorIs started .failed 0x0A 0x40100069 0) = true := by decide +kernel

/-- The start of section 5.4: 70 bytes 0, 1, 2, ... at 0x1000. -/
def interleaveStart : State :=
  withRegs [(1, 70), (2, 0x1000), (3, 0x2000)] (withBytes 0x1000 (List.range 70) State.reset)

/-- X1: the first bytes of the two blocks of version 3-Q, and the last -/
theorem test_deintl : nextSat (exec (.deintl 1 2 3 3 .Q) interleaveStart)
    (fun t => t.bytesAt 0x2000 4 == bytes [0, 2, 4, 6] && t.bytesAt 0x2023 4 == bytes [1, 3, 5, 7] &&
      t.byteAt 0x2045 == 0x45) = true := by decide +kernel
/-- XF6: both ranges leave `MEM`, the source is reported -/
theorem test_intl_bounds : nextSat (exec (.intl 1 2 3 3 .Q) (withRegs [(2, 0xFFC0), (3, 0xFFD0)] interleaveStart))
    (errorIs (withRegs [(2, 0xFFC0), (3, 0xFFD0)] interleaveStart) .fatal 0x80 0x42123083 0xFFC0) = true := by
  decide +kernel
/-- section 5.3: the map of 3-Q takes stream bytes 0, 1, 2, 3, 69 from offsets 0, 35, 1, 36, 69 -/
theorem test_intl : nextSat (exec (.intl 1 2 3 3 .Q) interleaveStart)
    (fun t => t.bytesAt 0x2000 4 == bytes [0, 35, 1, 36] && t.byteAt 0x2045 == 69) = true := by decide +kernel

/-- Pixel `(x, y)` of the test image of section 6.1. -/
def pixel (x y : Nat) : Nat := if (x / 3 + y / 3) % 2 = 1 then 96 + 4 * x + 2 * y - 64 else 96 + 4 * x + 2 * y

/-- The start of vector T4 (section 6.3): 4 x 4 tiles, window radius 1. -/
def imageStart : State :=
  { withRegs [(2, 0x1000)] (withBytes 0 ((List.range 441).map (fun j => pixel (j % 21) (j / 21))) State.reset) with
    imgW := 21, imgH := 21, thrCfg := 0x012 }

/-- T4 and T5: mean and median of the window of tile (0, 0) -/
theorem test_thresh_window : tileBase (imageStart.grayRows 0 21 21 0) 2 1 false 0 0 = 87 ∧
    tileBase (imageStart.grayRows 0 21 21 0) 2 1 true 0 0 = 98 := by decide +kernel
/-- T4: pixel (3, 0) is dark, pixel (2, 0) is light -/
theorem test_thresh : nextSat (exec (.thresh 1 2 0 false) imageStart)
    (fun t => t.byteAt 0x1003 == 1 && t.byteAt 0x1002 == 0) = true := by decide +kernel
/-! ## The host port -/

/-- H1: the acknowledge -/
theorem test_acknowledge : nextSat (step { failed with port := [.csrWrite 1 0] })
    (errorIs started .ready 0 0 0) = true := by decide +kernel
/-- H3: a read outside `MEM` -/
theorem test_host_out_of_bounds : nextSat (step { State.reset with port := [.memRead 0x10000] })
    (fun t => t.status == 2 && t.err == 0x80 && t.errCmd == 0 && t.errAux == 0x10000 && t.reply == .byte 0) = true := by
  decide +kernel
/-- H5: the write mask of `THRCFG` -/
theorem test_csr_mask : nextSat (step { State.reset with port := [.csrWrite 8 0xffffffff] })
    (fun t => t.csr 8 == 0x17f) = true := by decide +kernel
/-- H2: only reset leaves `FATAL` -/
theorem test_reset_from_fatal : nextSat (step { fatal with port := [.reset] })
    (fun t => t.status == 0 && t.err == 0) = true := by decide +kernel
/-- P5: the all-zero word -/
theorem test_illegal_word : nextSat (step { State.reset with port := [.issue 0] })
    (errorIs State.reset .fatal 0x83 0 0) = true := by decide +kernel
/-- the memory after reset is in canonical form -/
theorem test_reset_memory_wf : State.reset.mem.wf := by decide

/-! ## Every obligation with hypotheses has a case -/

theorem witness_DecodeEncodeRoundTrip : Instr.wf (.rsdec 15 15 255 255) = true ∧
    Instr.wf (.intl 15 15 15 63 .H) = true ∧ Instr.wf (.thresh 15 15 (-128) true) = true ∧
    Instr.wf (.thresh 0 0 127 false) = true := by decide

theorem witness_DecodedWordIsItsEncoding : decode 0x50012180#32 = .ok (.thresh 1 2 (-128) true) := by decide

theorem witness_WordSelectsRowIffMaskMatches :
    opTable.any (fun r => decide (0x21FFFFFF#32 &&& r.mask = r.pattern)) = true := by decide

theorem witness_IllegalWordsAreRejectedByName :
    opTable.all (fun r => decide (r.op ≠ slice 0x18000000#32 31 24)) = true ∧
    opTable.any (fun r => decide (r.op = slice 0x10000001#32 31 24 ∧ 0x10000001#32 &&& r.mask ≠ r.pattern)) = true := by
  decide

/-- A state with this transaction pending, and one more behind it. -/
def pending (tx : HostTx) (s : State) : State := { s with port := [tx, .csrRead 0] }

theorem witness_StepRunsTheIssuedCommand :
    (pending (.issue 0x11312000#32) started).port = .issue 0x11312000#32 :: [.csrRead 0] ∧
    (pending (.issue 0x11312000#32) started).run = .ready ∧ decode 0x11312000#32 = .ok (.gfadd 3 1 2) := by decide +kernel

theorem witness_IllegalWordIsAFatalDefect :
    (pending (.issue 0x10000001#32) started).port = .issue 0x10000001#32 :: [.csrRead 0] ∧
    (pending (.issue 0x10000001#32) started).run = .ready ∧
    ∀ r ∈ opTable, 0x10000001#32 &&& r.mask ≠ r.pattern := ⟨rfl, rfl, by decide⟩

theorem witness_IssuedWordsAreDroppedUnlessReady :
    failed.run ≠ .ready ∧ [0x11756000#32, 0#32] ≠ [] ∧
    ({ failed with port := [.issue 0x11756000#32, .issue 0#32] } : State).port =
      [0x11756000#32, 0#32].map HostTx.issue ++ [] := by decide

theorem witness_IdleBlockKeepsAllState : State.reset.port = [] := rfl

theorem witness_AcknowledgeReturnsToReady :
    (pending (.csrWrite 1 7) failed).port = .csrWrite 1 7 :: [.csrRead 0] ∧ (pending (.csrWrite 1 7) failed).run = .failed ∧
    (pending (.csrWrite 1 7) fatal).port = .csrWrite 1 7 :: [.csrRead 0] ∧
    (pending (.csrWrite 1 7) fatal).run ≠ .failed := by decide +kernel

theorem witness_FatalStateIsLeftOnlyByReset :
    ∀ tx ∈ [HostTx.reset, .issue 0, .regRead 15, .regWrite 15 1, .memRead 65535, .memRead 65536, .memWrite 0 1,
      .csrRead 9, .csrWrite 1 0], (pending tx fatal).run = .fatal ∧ (pending tx fatal).port = tx :: [.csrRead 0] :=
  fun _ _ => ⟨rfl, rfl⟩

theorem witness_ResetTransactionRestoresResetValues : (pending .reset fatal).port = .reset :: [.csrRead 0] := rfl

theorem witness_RegisterTransactionsReadAndWrite :
    (pending (.regRead 15) started).port = .regRead 15 :: [.csrRead 0] ∧
    (pending (.regWrite 0 (2 ^ 32)) failed).port = .regWrite 0 (2 ^ 32) :: [.csrRead 0] ∧
    (pending (.regWrite 0 (2 ^ 32)) failed).run ≠ .fatal := ⟨rfl, rfl, by decide⟩

/-- Addresses 65535 and 65536, the two sides of the end of `MEM`. -/
theorem witness_MemoryTransactionsReadAndWrite :
    (∀ tx ∈ [HostTx.memRead 65535, .memRead 65536, .memWrite 65535 1, .memWrite 65536 1], ∀ s ∈ [started, failed, fatal],
      (pending tx s).port = tx :: [.csrRead 0]) ∧
    65535 < started.memBytes ∧ started.memBytes ≤ 65536 ∧ started.run ≠ .fatal ∧ fatal.run = .fatal :=
  ⟨fun _ _ _ _ => rfl, by decide, by decide, by decide, rfl⟩

theorem witness_CsrReadsFollowTheMap : ∀ a ∈ [0, 1, 2, 3, 4, 5, 6, 7, 8, 9, 100],
    (pending (.csrRead a) started).port = .csrRead a :: [.csrRead 0] := fun _ _ => rfl

theorem witness_CsrWritesStoreTheNamedBits : ∀ a ∈ [0, 2, 3, 4, 5, 6, 7, 8, 9],
    (pending (.csrWrite a 5) failed).port = .csrWrite a 5 :: [.csrRead 0] ∧
    (pending (.csrWrite a 5) failed).run ≠ .fatal ∧ a ≠ 1 := by
  intro a h
  refine ⟨rfl, nofun, ?_⟩
  rintro rfl
  exact absurd h (by decide)

/-- The standard block table satisfies R172's condition. -/
theorem standardBlkTab_wf : blkTabWf standardBlkTab = true := by decide +kernel

/-- The state H1 leaves has the invariant. -/
theorem failed_inv : failed.Inv where
  error := ⟨by decide, by decide, by decide, by decide, by decide⟩
  tables := fun _ => ⟨rfl, rfl⟩
  csr := ⟨by decide, by decide, by decide, by decide, by decide⟩
  memory := ⟨by decide, by simp [failed, started, State.reset]⟩
  params := ⟨by decide, by decide, standardBlkTab_wf⟩

theorem witness_EveryStepKeepsTheInvariant : ∃ s t : State, s.Inv ∧ step s = .next t :=
  ⟨failed, failed, failed_inv, rfl⟩

/-- A booted instance with the smallest memory. -/
theorem witness_ReachableStatesMeetTheInvariant : Reachable (State.boot 1 standardBlkTab [.regRead 0]) :=
  ⟨1, standardBlkTab, [.regRead 0], 0, ⟨by decide, by decide, standardBlkTab_wf⟩, rfl⟩

theorem witness_ParametersNeverChange : ∃ t, step started = .next t := ⟨_, rfl⟩

/-- A failing command, a host access outside `MEM`, the acknowledge and reset. -/
theorem witness_StateChangesOnlyAsListed :
    (∃ t, step (pending (.issue 0x40100000#32) started) = .next t ∧ decide (t.run ≠ .ready) = true) ∧
    (∃ t, step (pending (.memWrite 65536 0) failed) = .next t ∧ decide (t.run ≠ .failed) = true) ∧
    (∃ t, step (pending (.csrWrite 1 0) failed) = .next t ∧ decide (t.run ≠ .failed) = true) ∧
    (∃ t, step (pending .reset fatal) = .next t ∧ decide (t.run ≠ .fatal) = true) :=
  ⟨exists_next (by decide +kernel), exists_next (by decide +kernel), exists_next (by decide +kernel),
    exists_next (by decide +kernel)⟩

theorem witness_TableReadyBitIsStickyUntilReset :
    (∃ t, step (pending .reset started) = .next t ∧ (started.tblRdy && !t.tblRdy) = true) ∧
    (∃ t, step (pending (.issue 0x10000000#32) State.reset) = .next t ∧ (!State.reset.tblRdy && t.tblRdy) = true) :=
  ⟨exists_next (by decide +kernel), exists_next (by decide +kernel)⟩

theorem witness_OnlyGfinitWritesTheTables :
    ∃ t, step (pending (.issue 0x10000000#32) State.reset) = .next t ∧
      decide (t.exp[0] ≠ State.reset.exp[0]) = true := exists_next (by decide +kernel)

/-- One command that completes and one that fails. -/
theorem witness_CommandsAreAllOrNothing :
    (started.run = .ready ∧ ∃ t, exec (.gfadd 3 1 2) started = .next t ∧ decide (t.run = .ready) = true) ∧
    (∃ t, exec (.blkinfo 1 0 .L) started = .next t ∧ decide (t.run = .failed) = true) :=
  ⟨⟨rfl, exists_next (by decide +kernel)⟩, exists_next (by decide +kernel)⟩

theorem witness_CommandWritesOnlyItsDestination :
    ∃ t, exec (.gfadd 3 1 1) (withRegs [(3, 9)] started) = .next t ∧
      decide (t.reg 3 ≠ (withRegs [(3, 9)] started).reg 3) = true := exists_next (by decide +kernel)

/-- The bytes on both sides of the 70 bytes stored from 0x2000, and the ends of the image. -/
theorem witness_CommandStoresOnlyInItsRange :
    (∃ t, exec (.intl 1 2 3 3 .Q) interleaveStart = .next t ∧ decide (storeRange interleaveStart (.intl 1 2 3 3 .Q) = (0x2000, 70) ∧
      (0x1FFF < 0x2000 ∨ 0x2000 + 70 ≤ 0x1FFF) ∧ (0x2046 < 0x2000 ∨ 0x2000 + 70 ≤ 0x2046)) = true) ∧
    (∃ t, exec (.thresh 1 2 0 false) imageStart = .next t ∧ decide (imageStart.num 1 ≤ 440 ∧
      440 < imageStart.num 1 + imageStart.width * imageStart.height * bytesPerPixel imageStart.pixFmt) = true) :=
  ⟨exists_next (by decide +kernel), exists_next (by decide +kernel)⟩

theorem witness_GfinitGeneratesTheTablesOnce : State.reset.tblRdy = false ∧ started.tblRdy = true := ⟨rfl, rfl⟩

theorem witness_GeneratorLoopLeavesTheTables : 0 < 256 ∧ 255 < 256 ∧ 0 < 255 ∧ 254 < 255 := by decide

/-- Covers GFMUL, GFDIV, GFINV, GFPOW, GFEXP and GFLOG: the tables are ready, and `r1` is not zero, `r2` is. -/
theorem witness_GfmulMultipliesInTheField : (withRegs [(1, 0x53)] started).TablesOk ∧
    (withRegs [(1, 0x53)] started).tblRdy = true ∧ (withRegs [(1, 0x53)] started).elem 1 ≠ 0 ∧
    (withRegs [(1, 0x53)] started).elem 2 = 0 :=
  ⟨fun _ => ⟨rfl, rfl⟩, rfl, by decide, by decide⟩
theorem witness_GfdivDividesInTheField : (withRegs [(1, 0x53)] started).TablesOk ∧
    (withRegs [(1, 0x53)] started).tblRdy = true ∧ (withRegs [(1, 0x53)] started).elem 1 ≠ 0 ∧
    (withRegs [(1, 0x53)] started).elem 2 = 0 := witness_GfmulMultipliesInTheField
theorem witness_GfinvInvertsInTheField : (withRegs [(1, 0x53)] started).TablesOk ∧
    (withRegs [(1, 0x53)] started).tblRdy = true ∧ (withRegs [(1, 0x53)] started).elem 1 ≠ 0 ∧
    (withRegs [(1, 0x53)] started).elem 2 = 0 := witness_GfmulMultipliesInTheField
theorem witness_GfpowRaisesInTheField : (withRegs [(1, 0x53)] started).TablesOk ∧
    (withRegs [(1, 0x53)] started).tblRdy = true := ⟨fun _ => ⟨rfl, rfl⟩, rfl⟩
theorem witness_GfexpRaisesAlpha : (withRegs [(1, 0xFFFFFFFF)] started).TablesOk ∧
    (withRegs [(1, 0xFFFFFFFF)] started).tblRdy = true := ⟨fun _ => ⟨rfl, rfl⟩, rfl⟩
theorem witness_GflogTakesTheLogarithm : (withRegs [(1, 0x53)] started).TablesOk ∧
    (withRegs [(1, 0x53)] started).tblRdy = true ∧ (withRegs [(1, 0x53)] started).elem 1 ≠ 0 ∧
    (withRegs [(1, 0x53)] started).elem 2 = 0 := witness_GfmulMultipliesInTheField

theorem witness_FieldMultiplicationLaws : gmul 0 0xFF = 0 ∧ (0xFF : Byte) ≠ 0 := by decide

theorem witness_TableCommandsNeedTheTables : State.reset.tblRdy = false ∧
    ∃ t, exec (.gfadd 3 1 2) { fatal with err := 0x82 } = .next t ∧ decide (t.err = 0x82) = true :=
  ⟨rfl, exists_next (by decide +kernel)⟩

/-- The start of D15: a block of 8 bytes at 0x100 with two errors (`n = 8`, `k = 4`). -/
def blockStart : State := withRegs [(4, 0x100)] (withBytes 0x100 [0x10, 2, 3, 4, 0x75, 0xa3, 0xb2, 0x42] started)

/-- `r4` is 0x100; `r5` is 0xFFF8, where a block of 8 bytes just fits. -/
theorem witness_RsencMakesTheBlockACodeword : blockStart.RsRuns 4 8 4 ∧ (withRegs [(5, 0xFFF8)] blockStart).RsRuns 5 8 7 := by
  unfold State.RsRuns; decide +kernel

theorem witness_CodewordsDifferInMoreThanKPositions : 1 ≤ 1 ∧ 1 < 2 ∧ 2 < 256 ∧ (bytes [5]).length = 2 - 1 ∧
    (bytes [0, 0]).length = 2 ∧ (bytes [1, 1]).length = 2 ∧ isCodeword (bytes [0, 0]) 1 = true ∧
    isCodeword (bytes [1, 1]) 1 = true ∧ bytes [0, 0] ≠ bytes [1, 1] := by decide +kernel

/-- A block of two bytes that differ is no codeword for `k = 1`. -/
def pairStart : State := withRegs [(4, 0x100)] (withBytes 0x100 [1, 2] started)

/-- The first clause at exactly `floor(k/2)` errors, the second for `k = 1`. -/
theorem witness_RsdecDecodesToTheBoundedDistance :
    (blockStart.RsRuns 4 8 4 ∧ (bytes [1, 2, 3, 4, 0x75, 0xa3, 0xb2, 0x60]).length = 8 ∧
      isCodeword (bytes [1, 2, 3, 4, 0x75, 0xa3, 0xb2, 0x60]) 4 = true ∧
      distance (blockStart.bytesAt (blockStart.num 4) 8) (bytes [1, 2, 3, 4, 0x75, 0xa3, 0xb2, 0x60]) ≤ 4 / 2) ∧
    (pairStart.RsRuns 4 2 1 ∧ ∀ c : List Byte, c.length = 2 → isCodeword c 1 = true →
      1 / 2 < distance (pairStart.bytesAt (pairStart.num 4) 2) c) := by
  refine ⟨by unfold State.RsRuns; decide +kernel, by unfold State.RsRuns; decide +kernel, fun c hc hw => ?_⟩
  have hb : pairStart.bytesAt (pairStart.num 4) 2 = bytes [1, 2] := by decide +kernel
  have hn : isCodeword (bytes [1, 2]) 1 = false := by decide +kernel
  rw [hb]
  match c, hc with
  | [a, b], _ =>
    by_cases ha : (1 : Byte) = a
    · by_cases h2 : (2 : Byte) = b
      · subst ha h2
        exact absurd hw (by simpa [bytes] using hn)
      · simp [distance, bytes]; exact .inr h2
    · simp [distance, bytes]; exact .inl ha

theorem witness_RsdecLeavesACodewordAlone :
    (withRegs [(4, 0x100)] (withBytes 0x100 [0x12, 0x34, 0x56, 0x70] started)).RsRuns 4 4 1 ∧
    isCodeword ((withRegs [(4, 0x100)] (withBytes 0x100 [0x12, 0x34, 0x56, 0x70] started)).bytesAt
      ((withRegs [(4, 0x100)] (withBytes 0x100 [0x12, 0x34, 0x56, 0x70] started)).num 4) 4) 1 = true := by
  unfold State.RsRuns; decide +kernel

/-- One run that corrects and one that gives up. -/
theorem witness_RsdecSuccessIsSound :
    (blockStart.RsRuns 4 8 4 ∧ blockStart.run = .ready ∧
      ∃ t, exec (.rsdec 3 4 8 4) blockStart = .next t ∧ decide (t.run = .ready) = true) ∧
    (pairStart.RsRuns 4 2 1 ∧ pairStart.run = .ready ∧
      ∃ t, exec (.rsdec 3 4 2 1) pairStart = .next t ∧ decide (t.run ≠ .ready) = true) :=
  ⟨⟨by unfold State.RsRuns; decide +kernel, rfl, exists_next (by decide +kernel)⟩,
    by unfold State.RsRuns; decide +kernel, rfl, exists_next (by decide +kernel)⟩

/-- RF1, RF2 and RF6: `k = 0`, `k = n`, and a base one byte too high for `n = 26`. -/
theorem witness_RsChecksParametersThenBounds : started.tblRdy = true ∧ (0 = 0 ∨ 26 ≤ 0) ∧ (10 = 0 ∨ 10 ≤ 10) ∧
    1 ≤ 10 ∧ 10 < 26 ∧ (withRegs [(4, 0xFFE7)] started).memBytes < (withRegs [(4, 0xFFE7)] started).num 4 + 26 := by
  decide +kernel

theorem witness_FormatCorrectionFindsTheCodeword : (0 : BitVec 5) ≠ 1 ∧
    popcount (0x0007#15 ^^^ fmtCw 0) ≤ 3 ∧ ¬ popcount (0x000F#15 ^^^ fmtCw 0) ≤ 3 := by decide +kernel

theorem witness_VersionCorrectionFindsTheCodeword : (0 : BitVec 6) ≠ 63 ∧
    popcount (0x00007#18 ^^^ verCw 0) ≤ 3 ∧ ¬ popcount (0x0000F#18 ^^^ verCw 0) ≤ 3 := by decide +kernel

/-- F4 (three errors in each copy) and F12. -/
theorem witness_BchfmtReturnsTheAgreedValue :
    (popcount ((withRegs [(1, 0x5503), (2, 0x2412)] started).fmtWord 1 ^^^ started.mask15 ^^^ fmtCw 0) ≤ 3 ∧
      popcount ((withRegs [(1, 0x5503), (2, 0x2412)] started).fmtWord 2 ^^^ started.mask15 ^^^ fmtCw 0) ≤ 3) ∧
    (∀ d : BitVec 5, ¬ (popcount ((withRegs [(1, 0x541d), (2, 0x541d)] started).fmtWord 1 ^^^ started.mask15 ^^^ fmtCw d) ≤ 3 ∧
      popcount ((withRegs [(1, 0x541d), (2, 0x541d)] started).fmtWord 2 ^^^ started.mask15 ^^^ fmtCw d) ≤ 3)) := by
  decide +kernel

/-- B1 (version 7), B3 (version 40, three errors) and B5 (a clean word for version 6). -/
theorem witness_BchverReturnsTheVersion :
    (7 ≤ (7 : BitVec 6).toNat ∧ (7 : BitVec 6).toNat ≤ 40 ∧ popcount ((withRegs [(1, 0x7c94)] started).verWord 1 ^^^ verCw 7) ≤ 3) ∧
    (7 ≤ (40 : BitVec 6).toNat ∧ (40 : BitVec 6).toNat ≤ 40 ∧
      popcount ((withRegs [(1, 0x28d78)] started).verWord 1 ^^^ verCw 40) ≤ 3) ∧
    (∀ v : BitVec 6, 7 ≤ v.toNat → v.toNat ≤ 40 → 3 < popcount ((withRegs [(1, 0x63b1)] started).verWord 1 ^^^ verCw v)) := by
  decide +kernel

theorem witness_BlkinfoReadsTheBlockTable : (1 ≤ 1 ∧ 1 ≤ 40) ∧ (1 ≤ 40 ∧ 40 ≤ 40) ∧ (0 = 0 ∨ 40 < 0) ∧ (41 = 0 ∨ 40 < 41) := by
  decide

theorem witness_BlockLengthsAddUpToTheTotal : blkTabWf standardBlkTab = true ∧ 1 ≤ 40 ∧ 40 ≤ 40 :=
  ⟨standardBlkTab_wf, by decide, by decide⟩

/-- Source and destination adjacent (XF8), and the destination at the very end of `MEM`. -/
theorem witness_DeintlScattersTheStream : (withRegs [(3, 0x1046)] interleaveStart).InterleaveRuns 1 2 3 3 .Q ∧
    (withRegs [(3, 0xFFBA)] interleaveStart).InterleaveRuns 1 2 3 3 .Q := by
  unfold State.InterleaveRuns disjoint; decide +kernel

theorem witness_IntlGathersTheStream : (withRegs [(3, 0x0FBA)] interleaveStart).InterleaveRuns 1 2 3 3 .Q ∧
    (withRegs [(3, 0xFFBA)] interleaveStart).InterleaveRuns 1 2 3 3 .Q := by
  unfold State.InterleaveRuns disjoint; decide +kernel

theorem witness_InterleavingIsInvertedByDeinterleaving :
    (withRegs [(4, 0x3000)] interleaveStart).InterleaveRuns 1 2 3 3 .Q ∧
    (withRegs [(4, 0x3000)] interleaveStart).InterleaveRuns 1 3 4 3 .Q ∧ disjoint 0x1000 70 0x3000 70 := by
  unfold State.InterleaveRuns disjoint; decide +kernel

/-- XF3, XF1, XF4, XF5 and XF7: each check in turn, the earlier ones passed. -/
theorem witness_InterleaveChecksInOrder : (0 = 0 ∨ 40 < 0) ∧
    (withRegs [(1, 69)] interleaveStart).num 1 ≠ (interleaveStart.blkEntry 3 .Q).total ∧
    interleaveStart.num 1 = (interleaveStart.blkEntry 3 .Q).total ∧
    interleaveStart.memBytes < (withRegs [(2, 0xFFC0)] interleaveStart).num 2 + 70 ∧
    interleaveStart.memBytes < (withRegs [(3, 0xFFC0)] interleaveStart).num 3 + 70 ∧
    0x1000 < (withRegs [(3, 0x1045)] interleaveStart).num 3 + 70 ∧
    (withRegs [(3, 0x1045)] interleaveStart).num 3 < 0x1000 + 70 := by decide +kernel

/-- The bitmap right behind the image (TF10). -/
theorem witness_ThreshWritesTheBitmap : (withRegs [(2, 0x01B9)] imageStart).ThreshRuns 1 2 := by
  unfold State.ThreshRuns disjoint; decide +kernel

theorem witness_BitmapNegatesWithPolarityAndGrowsWithOffset : imageStart.ThreshRuns 1 2 ∧ (-128 : Int) ≤ 127 := by
  unfold State.ThreshRuns disjoint; decide +kernel

theorem witness_WindowStatisticsAreMeanAndLowerMedian : [0, 255] ≠ [] ∧ ∀ v ∈ [0, 255], v < 256 := by decide

/-- TF5, TF3, TF7, TF8 and TF9: each check in turn. -/
theorem witness_ThreshChecksInOrder : ({ imageStart with imgFmt := 3 } : State).pixFmt = 3 ∧
    ({ imageStart with imgW := 20 } : State).width < 21 ∧
    imageStart.memBytes < (withRegs [(1, 0xFF00)] imageStart).num 1 + 21 * 21 * 1 ∧
    imageStart.memBytes < (withRegs [(2, 0xFF00)] imageStart).num 2 + 21 * 21 ∧
    (0 < (withRegs [(2, 0x01B8)] imageStart).num 2 + 441 ∧ (withRegs [(2, 0x01B8)] imageStart).num 2 < 0 + 441) := by
  decide +kernel

end Sys2Proof.Tests
end

/-!
PROOFS. What a command can do to the state, said once, and that no step changes `MEM_BYTES` or `BLKTAB`
(spec/00_scope.md R14, spec/10_state.md R29).
-/

namespace Sys2Proof.Proofs

open Sys2Proof Sys2Proof.Machine

/-! ## What a command can do -/

/-- Every way a command can leave the state: `GFINIT` twice or once (R95), a completed command that writes its `rd`, a
buffer, or both (R21, R65), or the error entry with a kind of the command's list (R211, R214, R215). -/
inductive CommandOutcome (i : Instr) (s : State) : State → Prop where
  | idle (hi : i = .gfinit) (hr : s.tblRdy = true) : CommandOutcome i s s
  | tables (hi : i = .gfinit) (hr : s.tblRdy = false) :
      CommandOutcome i s { s with exp := genExp, log := genLog, tblRdy := true }
  | register {rd : Reg} (hd : destOf i = some rd) (v : Word) : CommandOutcome i s (s.setReg rd v)
  | bytes (hd : destOf i = none) (base : Nat) (bs : List Byte) : CommandOutcome i s (s.setBytes base bs)
  | cells (hd : destOf i = none) (cs : List Host.Cell) : CommandOutcome i s (s.setCells cs)
  | cellsRegister {rd : Reg} (hd : destOf i = some rd) (cs : List Host.Cell) (v : Word) :
      CommandOutcome i s ((s.setCells cs).setReg rd v)
  | error {k : ErrKind} (hk : k ∈ raises i) (aux : Word) (haux : k ≠ .indexOutOfBounds → aux = 0) :
      CommandOutcome i s (s.takeError k (encode i) aux)

/-- The answer is a next state, and one of the outcomes of the command. -/
def CommandAnswers (i : Instr) (s : State) (r : Result) : Prop := ∃ t, r = .next t ∧ CommandOutcome i s t

namespace CommandAnswers

variable {i : Instr} {s t : State} {r : Result} {k : ErrKind}

theorem completes (h : CommandOutcome i s t) : CommandAnswers i s (.next t) := ⟨t, rfl, h⟩

/-- A typed failure is an outcome (R214). -/
theorem fail (hk : k ∈ raises i := by simp [raises]) : CommandAnswers i s (s.fail i k) :=
  completes (.error hk 0 fun _ => rfl)

/-- A fatal defect is an outcome; only an index out of bounds has an auxiliary value (R37, R215). -/
theorem defect {aux : Word} (haux : k ≠ .indexOutOfBounds → aux = 0)
    (hk : k ∈ raises i := by simp [raises]) : CommandAnswers i s (s.defect i k aux) :=
  completes (.error hk aux haux)

/-- A check that ends in a typed failure, in front of the rest of the command (R217). -/
theorem checkFail {c : Prop} [Decidable c] (h : CommandAnswers i s r)
    (hk : k ∈ raises i := by simp [raises]) : CommandAnswers i s (if c then s.fail i k else r) := by
  split
  · exact fail hk
  · exact h

/-- A check that ends in a fatal defect without an auxiliary value, in front of the rest of the command (R217). -/
theorem checkDefect {c : Prop} [Decidable c] (h : CommandAnswers i s r)
    (hk : k ∈ raises i := by simp [raises]) : CommandAnswers i s (if c then s.defect i k 0 else r) := by
  split
  · exact defect (fun _ => rfl) hk
  · exact h

/-- A bounds check, in front of the rest of the command (R55, R217). -/
theorem checkBounds {c : Prop} [Decidable c] {base : Word} (h : CommandAnswers i s r)
    (hk : .indexOutOfBounds ∈ raises i := by simp [raises]) :
    CommandAnswers i s (if c then s.defect i .indexOutOfBounds base else r) := by
  split
  · exact defect (fun hne => absurd rfl hne) hk
  · exact h

end CommandAnswers

open CommandAnswers

theorem execGfinit_answers (s : State) : CommandAnswers .gfinit s (execGfinit s) := by
  unfold execGfinit
  split
  next hr => exact completes (.idle rfl hr)
  next hr => exact completes (.tables rfl (by simpa using hr))

theorem execRsdec_answers (rd ra : Reg) (n k : Nat) (s : State) :
    CommandAnswers (.rsdec rd ra n k) s (execRsdec rd ra n k s) := by
  refine checkDefect (checkFail (checkBounds ?_))
  split
  · exact fail
  · exact completes (.cellsRegister rfl _ _)

theorem execBchfmt_answers (rd ra rb : Reg) (s : State) :
    CommandAnswers (.bchfmt rd ra rb) s (execBchfmt rd ra rb s) := by
  unfold execBchfmt
  split
  · exact fail
  · exact completes (.register rfl _)

theorem execBchver_answers (rd ra : Reg) (s : State) : CommandAnswers (.bchver rd ra) s (execBchver rd ra s) := by
  unfold execBchver
  split
  · exact fail
  · exact completes (.register rfl _)

/-- Every command answers a next state, which is one of its outcomes: its checks in order, then its effect. -/
theorem exec_answers (i : Instr) (s : State) : CommandAnswers i s (exec i s) := by
  cases i with
  | gfinit => exact execGfinit_answers s
  | gfadd rd ra rb => exact completes (.register rfl _)
  | gfmul rd ra rb => exact checkDefect (completes (.register rfl _))
  | gfdiv rd ra rb => exact checkDefect (checkDefect (completes (.register rfl _)))
  | gfinv rd ra => exact checkDefect (checkDefect (completes (.register rfl _)))
  | gfpow rd ra rb => exact checkDefect (completes (.register rfl _))
  | gfexp rd ra => exact checkDefect (completes (.register rfl _))
  | gflog rd ra => exact checkDefect (checkDefect (completes (.register rfl _)))
  | rsenc ra n k => exact checkDefect (checkFail (checkBounds (completes (.bytes rfl _ _))))
  | rsdec rd ra n k => exact execRsdec_answers rd ra n k s
  | bchfmt rd ra rb => exact execBchfmt_answers rd ra rb s
  | bchver rd ra => exact execBchver_answers rd ra s
  | blkinfo rd ver lvl => exact checkFail (completes (.register rfl _))
  | deintl rl ra rb ver lvl =>
    exact checkFail <| checkFail <| checkBounds <| checkBounds <| checkFail <| completes (.cells rfl _)
  | intl rl ra rb ver lvl =>
    exact checkFail <| checkFail <| checkBounds <| checkBounds <| checkFail <| completes (.bytes rfl _ _)
  | thresh ra rb off inv =>
    exact checkFail <| checkFail <| checkBounds <| checkBounds <| checkFail <| completes (.bytes rfl _ _)

/-- The inversion of `exec`: a state it answers is one of the outcomes of the command. -/
theorem exec_outcome {i : Instr} {s t : State} (h : exec i s = .next t) : CommandOutcome i s t := by
  obtain ⟨u, hu, ho⟩ := exec_answers i s
  obtain rfl : u = t := Host.Outcome.next.inj (hu.symm.trans h)
  exact ho

/-! ## The parameters -/

/-- `t` has the parameters of `s`, `MEM_BYTES` and `BLKTAB` (R6, R14, R29). -/
def SameParams (s t : State) : Prop := t.memBytes = s.memBytes ∧ t.blkTab = s.blkTab

/-- No outcome touches the parameters: each is an update of `Sys2Proof/Laws/State.lean`, or writes only the tables. -/
theorem CommandOutcome.sameParams {i : Instr} {s t : State} (h : CommandOutcome i s t) : SameParams s t := by
  cases h <;> simp [SameParams]

theorem issue_sameParams {s t : State} {w : Word} (h : s.issue w = .next t) : SameParams s t := by
  unfold State.issue at h
  split at h
  next =>
    split at h
    next => exact (exec_outcome h).sameParams
    next => cases h; exact ⟨rfl, rfl⟩
  next => cases h; exact ⟨rfl, rfl⟩

theorem setCsr_sameParams (s : State) (a : Nat) (v : Word) : SameParams s (s.setCsr a v) := by
  by_cases h : a ≠ 1 ∨ s.run ≠ .failed
  · rw [setCsr_frame s a v h]
    exact ⟨rfl, rfl⟩
  · obtain ⟨rfl, hrun⟩ : a = 1 ∧ s.run = .failed := by simpa using h
    simp [State.setCsr, hrun, SameParams]

theorem hostOutOfBounds_sameParams (s : State) (a : Nat) : SameParams s (s.hostOutOfBounds a) := by
  unfold State.hostOutOfBounds
  split <;> exact ⟨rfl, rfl⟩

theorem hostRegWrite_sameParams (s : State) (i : Reg) (v : Nat) : SameParams s (s.hostRegWrite i v) := by
  unfold State.hostRegWrite
  split <;> exact ⟨rfl, rfl⟩

theorem hostMemRead_sameParams (s : State) (a : Nat) : SameParams s (s.hostMemRead a) := by
  unfold State.hostMemRead
  split
  · exact ⟨rfl, rfl⟩
  · exact hostOutOfBounds_sameParams s a

theorem hostMemWrite_sameParams (s : State) (a v : Nat) : SameParams s (s.hostMemWrite a v) := by
  unfold State.hostMemWrite
  split
  · split <;> exact ⟨rfl, rfl⟩
  · exact hostOutOfBounds_sameParams s a

theorem hostCsrWrite_sameParams (s : State) (a v : Nat) : SameParams s (s.hostCsrWrite a v) := by
  unfold State.hostCsrWrite
  split
  · exact ⟨rfl, rfl⟩
  · exact setCsr_sameParams s a _

theorem transact_sameParams {s t : State} {tx : HostTx} (h : s.transact tx = .next t) : SameParams s t := by
  cases tx with
  | issue w => exact issue_sameParams h
  | reset => cases h; exact ⟨resetTx_memBytes s, resetTx_blkTab s⟩
  | regRead i => cases h; exact ⟨rfl, rfl⟩
  | regWrite i v => cases h; exact hostRegWrite_sameParams s i v
  | memRead a => cases h; exact hostMemRead_sameParams s a
  | memWrite a v => cases h; exact hostMemWrite_sameParams s a v
  | csrRead a => cases h; exact ⟨rfl, rfl⟩
  | csrWrite a v => cases h; exact hostCsrWrite_sameParams s a v

theorem step_sameParams {s t : State} (h : step s = .next t) : SameParams s t := by
  cases hp : s.port with
  | nil =>
    rw [step_idle hp] at h
    cases h
    exact ⟨rfl, rfl⟩
  | cons tx rest =>
    rw [step_transact hp] at h
    exact transact_sameParams (s := s.taken rest) h

/-- Settles O22: every command and every host transaction keeps the parameters, so every step does. -/
theorem parametersNeverChange : Obligations.ParametersNeverChange := by
  unfold Obligations.ParametersNeverChange
  exact fun _ _ h => step_sameParams h

end Sys2Proof.Proofs

/-!
PROOFS. The whole machine (spec/10_state.md): what one step can do, said once; who changes `STATE`, `TBLRDY` and the
tables; and the invariant of every reachable state.
-/

namespace Sys2Proof.Proofs

open Sys2Proof Sys2Proof.Machine

/-! ## What a step can do -/

/-- Every way a step can leave the state: the idle step (R242), or one of the eight transactions of R232 on the state
with that transaction taken off the port, with the condition under which it has that effect. -/
inductive StepOutcome (s : State) : State → Prop where
  | idle (hp : s.port = []) : StepOutcome s s
  | reset {rest : List HostTx} (hp : s.port = .reset :: rest) : StepOutcome s (s.taken rest).resetTx
  /-- a read, and a transaction that is dropped or ignored (R218, R221, R234 to R236) -/
  | answered {tx : HostTx} {rest : List HostTx} (hp : s.port = tx :: rest) (r : Reply) :
      StepOutcome s { s.taken rest with reply := r }
  | command {w : Word} {rest : List HostTx} {i : Instr} {t : State} (hp : s.port = .issue w :: rest)
      (hr : s.run = .ready) (hd : decode w = .ok i) (he : exec i (s.taken rest) = .next t) : StepOutcome s t
  | illegal {w : Word} {rest : List HostTx} (hp : s.port = .issue w :: rest) (hr : s.run = .ready) :
      StepOutcome s ((s.taken rest).illegal w)
  | regWrite {i : Reg} {v : Nat} {rest : List HostTx} (hp : s.port = .regWrite i v :: rest) :
      StepOutcome s ((s.taken rest).setReg i (BitVec.ofNat 32 v))
  | memWrite {a v : Nat} {rest : List HostTx} (hp : s.port = .memWrite a v :: rest) (ha : a < s.memBytes) :
      StepOutcome s ((s.taken rest).setBytes a [BitVec.ofNat 8 v])
  | outOfBounds {a : Nat} {rest : List HostTx}
      (hp : s.port = .memRead a :: rest ∨ ∃ v, s.port = .memWrite a v :: rest) (hr : s.run ≠ .fatal)
      (ha : s.memBytes ≤ a) (r : Reply) :
      StepOutcome s { (s.taken rest).takeError .indexOutOfBounds 0 (BitVec.ofNat 32 a) with reply := r }
  | acknowledge {v : Nat} {rest : List HostTx} (hp : s.port = .csrWrite 1 v :: rest) (hr : s.run = .failed) :
      StepOutcome s (s.taken rest).acknowledge
  /-- a write to a CSR that is no acknowledge: it changes at most a configuration CSR (`setCsr_frame`) -/
  | csrWrite {a v : Nat} {rest : List HostTx} (hp : s.port = .csrWrite a v :: rest) (ha : a ≠ 1 ∨ s.run ≠ .failed) :
      StepOutcome s ((s.taken rest).setCsr a (BitVec.ofNat 32 v))

section
variable {s t : State} {rest : List HostTx}

theorem issue_outcome {w : Word} (hp : s.port = .issue w :: rest) (h : (s.taken rest).issue w = .next t) :
    StepOutcome s t := by
  unfold State.issue at h
  split at h
  next hr =>
    split at h
    next i hd => exact .command hp hr hd h
    next => cases h; exact .illegal hp hr
  next => cases h; exact .answered hp _

theorem hostRegWrite_outcome {i : Reg} {v : Nat} (hp : s.port = .regWrite i v :: rest) :
    StepOutcome s ((s.taken rest).hostRegWrite i v) := by
  unfold State.hostRegWrite
  split
  · exact .answered hp _
  · exact .regWrite hp

theorem hostMemRead_outcome {a : Nat} (hp : s.port = .memRead a :: rest) :
    StepOutcome s ((s.taken rest).hostMemRead a) := by
  unfold State.hostMemRead State.hostOutOfBounds
  split
  · exact .answered hp _
  next ha =>
    split
    · exact .answered hp _
    next hr => exact .outOfBounds (.inl hp) hr (Nat.le_of_not_lt ha) _

theorem hostMemWrite_outcome {a v : Nat} (hp : s.port = .memWrite a v :: rest) :
    StepOutcome s ((s.taken rest).hostMemWrite a v) := by
  unfold State.hostMemWrite State.hostOutOfBounds
  split
  next ha =>
    split
    · exact .answered hp _
    · exact .memWrite hp ha
  next ha =>
    split
    · exact .answered hp _
    next hr => exact .outOfBounds (.inr ⟨v, hp⟩) hr (Nat.le_of_not_lt ha) _

theorem hostCsrWrite_outcome {a v : Nat} (hp : s.port = .csrWrite a v :: rest) :
    StepOutcome s ((s.taken rest).hostCsrWrite a v) := by
  unfold State.hostCsrWrite
  split
  · exact .answered hp _
  · by_cases ha : a ≠ 1 ∨ s.run ≠ .failed
    · exact .csrWrite hp ha
    · obtain ⟨rfl, hr⟩ : a = 1 ∧ s.run = .failed := by simpa using ha
      simpa [State.setCsr, hr] using StepOutcome.acknowledge hp hr

/-- The inversion of `step`: a state it answers is one of the outcomes of a step. -/
theorem step_outcome (h : step s = .next t) : StepOutcome s t := by
  cases hp : s.port with
  | nil =>
    rw [step_idle hp] at h
    cases h
    exact .idle hp
  | cons tx rest =>
    rw [step_transact hp] at h
    cases tx with
    | issue w => exact issue_outcome hp h
    | reset => cases h; exact .reset hp
    | regRead i => cases h; exact .answered hp _
    | regWrite i v => cases h; exact hostRegWrite_outcome hp
    | memRead a => cases h; exact hostMemRead_outcome hp
    | memWrite a v => cases h; exact hostMemWrite_outcome hp
    | csrRead a => cases h; exact .answered hp _
    | csrWrite a v => cases h; exact hostCsrWrite_outcome hp

end

/-! ## `STATE` -/

/-- A write to a CSR that is no acknowledge leaves `STATE` and the error registers alone. -/
theorem setCsr_run {s : State} {a : Nat} (v : Word) (h : a ≠ 1 ∨ s.run ≠ .failed) : (s.setCsr a v).run = s.run := by
  rw [setCsr_frame s a v h]

theorem RunState.eq_failed_or_fatal {r : RunState} (h : r ≠ .ready) : r = .failed ∨ r = .fatal := by
  cases r <;> simp at h ⊢

/-- Settles O23: of the outcomes of a step only a word issued in `READY`, an access outside `MEM`, the acknowledge and
`Reset` have another `STATE`. -/
theorem stateChangesOnlyAsListed : Obligations.StateChangesOnlyAsListed := by
  unfold Obligations.StateChangesOnlyAsListed
  intro s t h hne
  cases step_outcome h with
  | idle | answered | regWrite | memWrite => exact absurd rfl hne
  | csrWrite hp ha => exact absurd (setCsr_run (s := s.taken _) _ ha) hne
  | command hp hr => exact .inl ⟨hr, RunState.eq_failed_or_fatal (hr ▸ hne), _, _, hp⟩
  | illegal hp hr => exact .inl ⟨hr, .inr rfl, _, _, hp⟩
  | outOfBounds hp hr ha => exact .inr (.inl ⟨hr, rfl, _, _, ha, hp⟩)
  | acknowledge hp hr => exact .inr (.inr (.inl ⟨hr, rfl, _, _, hp⟩))
  | reset hp => exact .inr (.inr (.inr ⟨rfl, _, hp⟩))

/-! ## The tables and `TBLRDY` -/

/-- `t` has the tables of `s` and its `TBLRDY`. -/
def SameTables (s t : State) : Prop := t.tblRdy = s.tblRdy ∧ t.exp = s.exp ∧ t.log = s.log

/-- Of all commands only the first `GFINIT` touches the tables (R27, R95). -/
theorem CommandOutcome.tables_cases {i : Instr} {s t : State} (h : CommandOutcome i s t) :
    SameTables s t ∨ (i = .gfinit ∧ s.tblRdy = false ∧ t.tblRdy = true ∧ t.exp = genExp ∧ t.log = genLog) := by
  cases h with
  | tables hi hr => exact .inr ⟨hi, hr, rfl, rfl, rfl⟩
  | idle | register | bytes | cells | cellsRegister | error => exact .inl ⟨rfl, rfl, rfl⟩

/-- Of all steps only `Reset` and the first issued `GFINIT` touch the tables (R27, R28). -/
theorem StepOutcome.tables_cases {s t : State} (h : StepOutcome s t) :
    SameTables s t ∨ ((∃ rest, s.port = .reset :: rest) ∧ t.tblRdy = false) ∨
    ((∃ w rest, s.port = .issue w :: rest ∧ decode w = .ok .gfinit) ∧
      s.tblRdy = false ∧ t.tblRdy = true ∧ t.exp = genExp ∧ t.log = genLog) := by
  cases h with
  | idle | answered | illegal | regWrite | memWrite | outOfBounds | acknowledge => exact .inl ⟨rfl, rfl, rfl⟩
  | csrWrite hp ha =>
    rw [setCsr_frame (s.taken _) _ _ ha]
    exact .inl ⟨rfl, rfl, rfl⟩
  | reset hp => exact .inr (.inl ⟨⟨_, hp⟩, rfl⟩)
  | command hp hr hd he =>
    rcases (exec_outcome he).tables_cases with hsame | ⟨rfl, htables⟩
    · exact .inl hsame
    · exact .inr (.inr ⟨⟨_, _, hp, hd⟩, htables⟩)

/-- The number `STATUS` holds: `STATE` below bit 2, `TBLRDY` in bit 8 (R35). -/
theorem status_toNat (s : State) : s.status.toNat = s.run.code + 256 * s.tblRdy.toNat := by
  have hrun : s.run.code < 4 := by cases s.run <;> decide
  have hrdy := s.tblRdy.toNat_le
  rw [State.status, BitVec.toNat_ofNat]
  omega

/-- The four parts of `STATUS` (R35). -/
theorem status_slices (s : State) :
    slice s.status 1 0 = s.run.code ∧ slice s.status 7 2 = 0 ∧ slice s.status 8 8 = s.tblRdy.toNat ∧
      slice s.status 31 9 = 0 := by
  have hrun : s.run.code < 4 := by cases s.run <;> decide
  have hrdy := s.tblRdy.toNat_le
  simp only [slice, status_toNat]
  omega

/-- `STATUS[8]` is `TBLRDY` (R28). -/
theorem status_bit8 (s : State) : slice s.status 8 8 = s.tblRdy.toNat := by
  obtain ⟨-, -, hbit, -⟩ := status_slices s
  exact hbit

/-- After `GFINIT` the tables are ready, whether it generated them or they were ready before (R95). -/
theorem gfinit_sets_tblRdy (s : State) : ∃ t, exec .gfinit s = .next t ∧ t.tblRdy = true := by
  by_cases hr : s.tblRdy = true
  · exact ⟨s, if_pos hr, hr⟩
  · exact ⟨_, if_neg hr, rfl⟩

/-- Settles O24: the five clauses of R28, the last two from the cases of a step. -/
theorem tableReadyBitIsStickyUntilReset : Obligations.TableReadyBitIsStickyUntilReset := by
  unfold Obligations.TableReadyBitIsStickyUntilReset
  refine ⟨rfl, status_bit8, gfinit_sets_tblRdy, fun s t h hs ht => ?cleared, fun s t h hs ht => ?set⟩
  case cleared =>
    rcases (step_outcome h).tables_cases with ⟨hrdy, -⟩ | ⟨hreset, -⟩ | ⟨-, hrdy, -⟩
    · simp [hrdy, hs] at ht
    · exact hreset
    · simp [hs] at hrdy
  case set =>
    rcases (step_outcome h).tables_cases with ⟨hrdy, -⟩ | ⟨-, hrdy⟩ | ⟨hissued, -⟩
    · simp [hrdy, hs] at ht
    · simp [hrdy] at ht
    · exact hissued

/-- Settles O25: from the same cases of a step. -/
theorem onlyGfinitWritesTheTables : Obligations.OnlyGfinitWritesTheTables := by
  unfold Obligations.OnlyGfinitWritesTheTables
  intro s t h hne
  rcases (step_outcome h).tables_cases with ⟨-, hsame⟩ | ⟨hreset, -⟩ | ⟨hissued, hrdy, -⟩
  · exact absurd hsame hne
  · exact .inl hreset
  · exact .inr ⟨hrdy, hissued⟩

/-! ## Registers -/

/-- Settles O27: an outcome that writes a register writes the `rd` of the command. -/
theorem commandWritesOnlyItsDestination : Obligations.CommandWritesOnlyItsDestination := by
  unfold Obligations.CommandWritesOnlyItsDestination
  intro i s t r h hne
  cases exec_outcome h with
  | idle | tables | bytes | cells | error => exact absurd rfl hne
  | register hd v =>
    obtain rfl : r = _ := by_contra fun hr => hne (reg_setReg_of_ne s hr v)
    exact hd
  | cellsRegister hd cs v =>
    obtain rfl : r = _ := by_contra fun hr => hne (reg_setReg_of_ne (s.setCells cs) hr v)
    exact hd

/-! ## CSRs -/

/-- Settles O14: each value stands in `State.reset`; nothing is listed in its memory. -/
theorem resetStateHoldsTheSpecValues : Obligations.ResetStateHoldsTheSpecValues := by
  unfold Obligations.ResetStateHoldsTheSpecValues
  exact ⟨reg_reset, rfl, rfl, rfl, rfl, rfl, rfl, rfl, rfl, rfl, rfl, rfl, fun _ => rfl⟩

/-- A CSR address with no register reads 0 (R43). -/
theorem csr_reserved (s : State) {a : Nat} (h : 9 ≤ a) : s.csr a = 0 := by
  obtain ⟨n, rfl⟩ : ∃ n, a = n + 9 := ⟨a - 9, by omega⟩
  rfl

/-- Settles O17: the read answers `State.csr` of the address; `STATUS` by its four parts. -/
theorem csrReadsFollowTheMap : Obligations.CsrReadsFollowTheMap := by
  unfold Obligations.CsrReadsFollowTheMap
  intro s a rest hp
  refine ⟨s.csr a, step_transact hp, ?status, ?_, ?_, ?_, ?_, ?_, ?_, ?_, ?_, csr_reserved s⟩
  case status =>
    rintro rfl
    exact status_slices s
  all_goals
    rintro rfl
    rfl

/-! ### The named bits of a written value -/

/-- Masking the word of a number is masking the number. -/
theorem ofNat_and_eq {m v n : Nat} (h : v &&& m = n) :
    BitVec.ofNat 32 v &&& BitVec.ofNat 32 m = BitVec.ofNat 32 n := by
  rw [← BitVec.ofNat_and, h]

theorem and_fmtMaskBits (v : Nat) : BitVec.ofNat 32 v &&& fmtMaskBits = BitVec.ofNat 32 (v % 2 ^ 15) :=
  ofNat_and_eq (Nat.and_two_pow_sub_one_eq_mod v 15)

theorem and_imgSideBits (v : Nat) : BitVec.ofNat 32 v &&& imgSideBits = BitVec.ofNat 32 (v % 2 ^ 16) :=
  ofNat_and_eq (Nat.and_two_pow_sub_one_eq_mod v 16)

theorem and_imgFmtBits (v : Nat) : BitVec.ofNat 32 v &&& imgFmtBits = BitVec.ofNat 32 (v % 4) :=
  ofNat_and_eq (Nat.and_two_pow_sub_one_eq_mod v 2)

/-- `THRCFG` has the seven low bits and bit 8 (R42). -/
theorem and_thrCfgBits (v : Nat) :
    BitVec.ofNat 32 v &&& thrCfgBits = BitVec.ofNat 32 (v % 2 ^ 7 + v / 2 ^ 8 % 2 * 2 ^ 8) := by
  refine ofNat_and_eq (m := 1 * 2 ^ 8 + 127) ?_
  have hlow : v % 2 ^ 8 &&& 127 = v % 2 ^ 7 := by
    rw [Nat.and_two_pow_sub_one_eq_mod _ 7]
    omega
  rw [and_high_low v 1 127 8 (by decide), Nat.and_one_is_mod, hlow, Nat.add_comm]

/-- Settles O18: the frame of a write that is no acknowledge, each mask as arithmetic. -/
theorem csrWritesStoreTheNamedBits : Obligations.CsrWritesStoreTheNamedBits := by
  unfold Obligations.CsrWritesStoreTheNamedBits
  intro s a v rest hp hr ha
  have hwrite : (s.taken rest).hostCsrWrite a v = (s.taken rest).setCsr a (BitVec.ofNat 32 v) := if_neg hr
  rw [step_transact hp, State.transact, hwrite, setCsr_frame _ _ _ (.inl ha), and_fmtMaskBits, and_imgSideBits,
    and_imgFmtBits, and_thrCfgBits]
  rfl

/-! ## `BLKINFO` -/

theorem verInRange_iff (ver : Nat) : verInRange ver = true ↔ 1 ≤ ver ∧ ver ≤ 40 := by
  simp [verInRange]

/-- Settles O50: the range check of the version decides between the two ends of the command. -/
theorem blkinfoReadsTheBlockTable : Obligations.BlkinfoReadsTheBlockTable := by
  unfold Obligations.BlkinfoReadsTheBlockTable
  intro rd ver lvl s
  refine ⟨fun h1 h40 => ?_, fun hver => ?_⟩
  · have hin : verInRange ver = true := (verInRange_iff ver).2 ⟨h1, h40⟩
    exact if_neg (by simp [hin])
  · have hout : verInRange ver = false := by
      rw [Bool.eq_false_iff, Ne, verInRange_iff]
      omega
    exact if_pos (by simp [hout])

/-! ## The error registers agree with `STATE` -/

/-- `t` has the `STATE` of `s` and its error registers. -/
def SameErrors (s t : State) : Prop := t.run = s.run ∧ t.err = s.err ∧ t.errCmd = s.errCmd ∧ t.errAux = s.errAux

theorem errorOk_of_same {s t : State} (hs : s.ErrorOk) (h : SameErrors s t) : t.ErrorOk := by
  obtain ⟨hrun, herr, hcmd, haux⟩ := h
  obtain ⟨hready, hfailed, hfatal, hcmd0, haux0⟩ := hs
  exact ⟨by rwa [herr, hrun], by rwa [herr, hrun], by rwa [herr, hrun], by rwa [herr, hcmd], by rwa [herr, haux]⟩

/-- The kinds this block raises (R211's last column): five typed failures and the four fatal defects. -/
def raisable : List ErrKind :=
  [.formatInfoUnrecoverable, .versionInfoUnrecoverable, .reedSolomonUnrecoverable, .imageTooSmall, .invalidInput,
    .indexOutOfBounds, .gfZeroOperand, .tablesNotReady, .illegalCommand]

theorem raises_subset (i : Instr) : raises i ⊆ raisable := by
  cases i <;> simp [raises, raisable]

/-- The code of a raisable kind is one that R47(b) allows in the `STATE` of its class. -/
theorem raisable_codes : ∀ k ∈ raisable, (k.target = .failed → k.code ∈ [(4 : Word), 5, 6, 9, 10]) ∧
    (k.target = .fatal → k.code ∈ [(0x80 : Word), 0x81, 0x82, 0x83]) := by
  decide

/-- The error entry makes the error registers agree with `STATE`, whatever they held (R213 to R215). -/
theorem takeError_errorOk (s : State) {k : ErrKind} (hk : k ∈ raisable) (cmd : Word) {aux : Word}
    (haux : k ≠ .indexOutOfBounds → aux = 0) : (s.takeError k cmd aux).ErrorOk where
  ready_iff := iff_of_false (code_ne_zero k) (target_ne_ready k)
  failed_kind := (raisable_codes k hk).1
  fatal_kind := (raisable_codes k hk).2
  cmd_zero h := absurd h (code_ne_zero k)
  aux_zero h := haux fun hk => h (congrArg ErrKind.code hk)

/-- In `READY` with the three error registers 0 they agree. -/
theorem errorOk_of_ready {s : State} (hrun : s.run = .ready) (herr : s.err = 0) (hcmd : s.errCmd = 0)
    (haux : s.errAux = 0) : s.ErrorOk where
  ready_iff := iff_of_true herr hrun
  failed_kind h := by simp [hrun] at h
  fatal_kind h := by simp [hrun] at h
  cmd_zero _ := hcmd
  aux_zero _ := haux

theorem CommandOutcome.errorOk {i : Instr} {s t : State} (h : CommandOutcome i s t) (hs : s.ErrorOk) : t.ErrorOk := by
  cases h with
  | error hk aux haux => exact takeError_errorOk s (raises_subset i hk) (encode i) haux
  | idle | tables | register | bytes | cells | cellsRegister => exact errorOk_of_same hs ⟨rfl, rfl, rfl, rfl⟩

theorem StepOutcome.errorOk {s t : State} (h : StepOutcome s t) (hs : s.ErrorOk) : t.ErrorOk := by
  have htaken (rest : List HostTx) : (s.taken rest).ErrorOk := errorOk_of_same hs ⟨rfl, rfl, rfl, rfl⟩
  cases h with
  | idle | answered | regWrite | memWrite => exact errorOk_of_same hs ⟨rfl, rfl, rfl, rfl⟩
  | csrWrite hp ha =>
    rw [setCsr_frame (s.taken _) _ _ ha]
    exact errorOk_of_same hs ⟨rfl, rfl, rfl, rfl⟩
  | reset | acknowledge => exact errorOk_of_ready rfl rfl rfl rfl
  | command hp hr hd he => exact (exec_outcome he).errorOk (htaken _)
  | illegal => exact takeError_errorOk _ (by decide) _ fun _ => rfl
  | outOfBounds =>
    exact errorOk_of_same
      (takeError_errorOk s (k := .indexOutOfBounds) (by decide) 0 fun hne => absurd rfl hne)
      ⟨rfl, rfl, rfl, rfl⟩

/-! ## Ready tables are the generator's -/

theorem StepOutcome.tablesOk {s t : State} (h : StepOutcome s t) (hs : s.TablesOk) : t.TablesOk := by
  rcases h.tables_cases with ⟨hrdy, hexp, hlog⟩ | ⟨-, hrdy⟩ | ⟨-, -, -, htables⟩
  · simpa only [State.TablesOk, hrdy, hexp, hlog] using hs
  · exact fun h => by simp [hrdy] at h
  · exact fun _ => htables

/-! ## The unnamed bits of the configuration CSRs -/

/-- `t` has the configuration CSRs of `s`. -/
def SameConfig (s t : State) : Prop :=
  t.fmtMask = s.fmtMask ∧ t.imgW = s.imgW ∧ t.imgH = s.imgH ∧ t.imgFmt = s.imgFmt ∧ t.thrCfg = s.thrCfg

theorem csrOk_of_same {s t : State} (hs : s.CsrOk) (h : SameConfig s t) : t.CsrOk := by
  obtain ⟨h1, h2, h3, h4, h5⟩ := h
  obtain ⟨b1, b2, b3, b4, b5⟩ := hs
  exact ⟨h1 ▸ b1, h2 ▸ b2, h3 ▸ b3, h4 ▸ b4, h5 ▸ b5⟩

/-- A CSR that takes the named bits `m` of a value, or keeps what it held, has no bit outside them. -/
theorem masked_or_kept {c : Prop} [Decidable c] {old m : Word} (v : Word) (h : old &&& ~~~m = 0) :
    (if c then v &&& m else old) &&& ~~~m = 0 := by
  split
  · rw [BitVec.and_assoc, BitVec.and_not_self]
    exact BitVec.and_zero
  · exact h

theorem setCsr_csrOk {s : State} {a : Nat} (v : Word) (ha : a ≠ 1 ∨ s.run ≠ .failed) (hs : s.CsrOk) :
    (s.setCsr a v).CsrOk := by
  rw [setCsr_frame s a v ha]
  exact ⟨masked_or_kept v hs.fmtMask_bits, masked_or_kept v hs.imgW_bits, masked_or_kept v hs.imgH_bits,
    masked_or_kept v hs.imgFmt_bits, masked_or_kept v hs.thrCfg_bits⟩

theorem reset_csrOk : State.reset.CsrOk := by
  constructor <;> decide

/-- No command writes a configuration CSR (R24). -/
theorem CommandOutcome.sameConfig {i : Instr} {s t : State} (h : CommandOutcome i s t) : SameConfig s t := by
  cases h <;> exact ⟨rfl, rfl, rfl, rfl, rfl⟩

theorem StepOutcome.csrOk {s t : State} (h : StepOutcome s t) (hs : s.CsrOk) : t.CsrOk := by
  have htaken (rest : List HostTx) : (s.taken rest).CsrOk := csrOk_of_same hs ⟨rfl, rfl, rfl, rfl, rfl⟩
  cases h with
  | idle | answered | illegal | regWrite | memWrite | outOfBounds | acknowledge =>
    exact csrOk_of_same hs ⟨rfl, rfl, rfl, rfl, rfl⟩
  | csrWrite hp ha => exact setCsr_csrOk _ ha (htaken _)
  | reset => exact csrOk_of_same reset_csrOk ⟨rfl, rfl, rfl, rfl, rfl⟩
  | command hp hr hd he => exact csrOk_of_same (htaken _) (exec_outcome he).sameConfig

/-! ## How many bytes a command stores -/

/-! ### The RS encoder -/

theorem polyAdd_length (p q : List Byte) : (polyAdd p q).length = max p.length q.length := by
  induction p, q using polyAdd.induct with
  | case1 q => simp [polyAdd]
  | case2 p hp => cases p <;> simp [polyAdd]
  | case3 a p b q ih => simp [polyAdd, ih]

theorem genPoly_length (k : Nat) : (genPoly k).length = k + 1 := by
  induction k with
  | zero => rfl
  | succ k ih => simp [genPoly, polyScale, polyAdd_length, ih]

/-- One round of the shift register keeps its length. -/
theorem encodeStep_length {gHigh rem : List Byte} (h : gHigh.length = rem.length) (d : Byte) :
    (encodeStep gHigh rem d).length = rem.length := by
  simp only [encodeStep, polyScale, List.length_zipWith, List.length_append, List.length_drop, List.length_map,
    List.length_cons, List.length_nil]
  omega

theorem foldl_encodeStep_length {gHigh : List Byte} (d rem : List Byte) (h : gHigh.length = rem.length) :
    (d.foldl (encodeStep gHigh) rem).length = rem.length := by
  induction d generalizing rem with
  | nil => rfl
  | cons b d ih =>
    have hstep := encodeStep_length h b
    rw [List.foldl_cons, ih _ (h.trans hstep.symm), hstep]

/-- The encoder gives `k` ECC bytes (R125). -/
theorem rsEncode_length (d : List Byte) (k : Nat) : (rsEncode d k).length = k := by
  rw [rsEncode, foldl_encodeStep_length, List.length_replicate]
  simp [genPoly_length]

/-- The pairs where two blocks differ lie in the first block (R127). -/
theorem mem_diffFrom {j : Nat} {c c' : List Byte} {p : Nat × Byte} (h : p ∈ diffFrom j c c') :
    j ≤ p.1 ∧ p.1 < j + c.length := by
  induction c generalizing j c' with
  | nil => simp [diffFrom] at h
  | cons a c ih =>
    cases c' with
    | nil => simp [diffFrom] at h
    | cons b c' =>
      rw [List.length_cons]
      by_cases hab : a = b
      · rw [diffFrom, if_pos hab] at h
        have := ih h
        omega
      · rw [diffFrom, if_neg hab] at h
        rcases List.mem_cons.mp h with rfl | h
        · simp
        · have := ih h
          omega

/-! ### The stream map -/

/-- Blocks lie one behind the other (R173). -/
theorem offs_mono (e : BlkEntry) : Monotone e.offs :=
  monotone_nat_of_le_succ fun _ => Nat.le_add_right _ _

/-- A byte of a block lies in front of the end of the block area. -/
theorem offs_add_lt_total (e : BlkEntry) {b i : Nat} (hb : b < e.blocks) (hi : i < e.nlen b) :
    e.offs b + i < e.total := by
  have hend : e.offs (b + 1) ≤ e.total := offs_mono e hb
  have hsucc : e.offs (b + 1) = e.offs b + e.nlen b := rfl
  omega

/-- The map gives offsets in the block area (R175). -/
theorem mem_streamMap_lt {e : BlkEntry} {q : Nat} (h : q ∈ e.streamMap) : q < e.total := by
  simp only [BlkEntry.streamMap, List.mem_append, List.mem_flatMap, List.mem_map, List.mem_filter, List.mem_range,
    decide_eq_true_eq] at h
  rcases h with ⟨i, -, b, ⟨hb, hi⟩, rfl⟩ | ⟨i, hi, b, hb, rfl⟩
  · exact offs_add_lt_total e hb (Nat.lt_add_right _ hi)
  · rw [Nat.add_assoc]
    exact offs_add_lt_total e hb (Nat.add_lt_add_left hi _)

/-- A block of `d` words takes part in the first `d` of `n` rounds. -/
theorem sum_rounds_of_block (n d : Nat) : ((List.range n).map (fun i => if i < d then 1 else 0)).sum = min n d := by
  induction n with
  | zero => simp
  | succ n ih =>
    rw [List.range_succ, List.map_append, List.sum_append, ih, List.map_singleton, List.sum_singleton]
    split <;> omega

/-- Counting the words round by round is counting them block by block. -/
theorem sum_rounds (d : Nat → Nat) (n B : Nat) (h : ∀ b < B, d b ≤ n) :
    ((List.range n).map (fun i => ((List.range B).filter (fun b => i < d b)).length)).sum =
      ((List.range B).map d).sum := by
  induction B with
  | zero => simp
  | succ B ih =>
    have hone (i : Nat) : ([B].filter (fun b => i < d b)).length = if i < d B then 1 else 0 := by
      split <;> simp [*]
    simp only [List.range_succ, List.filter_append, List.length_append, List.map_append, List.sum_append, hone,
      List.sum_map_add, ih fun b hb => h b (Nat.lt_succ_of_lt hb), sum_rounds_of_block, List.map_singleton,
      List.sum_singleton, Nat.min_eq_right (h B (Nat.lt_succ_self B))]

/-- The offset of a block is the length of the blocks before it (R173). -/
theorem offs_eq_sum (e : BlkEntry) (B : Nat) :
    e.offs B = ((List.range B).map e.dlen).sum + B * e.ecc := by
  induction B with
  | zero => simp [BlkEntry.offs]
  | succ B ih =>
    rw [BlkEntry.offs, ih, List.range_succ, List.map_append, List.sum_append, BlkEntry.nlen]
    simp only [List.map_singleton, List.sum_singleton]
    ring

/-- No block has more data codewords than there are data rounds (R173). -/
theorem dlen_le_maxd (e : BlkEntry) {b : Nat} (h : b < e.blocks) : e.dlen b ≤ e.maxd := by
  unfold BlkEntry.blocks at h
  unfold BlkEntry.dlen BlkEntry.maxd
  split <;> split <;> omega

/-- The stream has as many bytes as the block area (R173, R175). -/
theorem streamMap_length (e : BlkEntry) : e.streamMap.length = e.total := by
  simp only [BlkEntry.streamMap, List.length_append, List.length_flatMap, List.length_map, List.length_range,
    sum_rounds e.dlen _ _ fun b => dlen_le_maxd e, List.map_const', List.sum_replicate, BlkEntry.total, offs_eq_sum]
  simp [Nat.mul_comm]

/-! ### The bitmap -/

theorem bitmap_length (rows : List (List Nat)) (w h tlog wrad : Nat) (median : Bool) (off : Int) (inv : Bool) :
    (bitmap rows w h tlog wrad median off inv).length = w * h := by
  simp [bitmap, Nat.mul_comm]

/-! ## What a command does to memory -/

/-- The memories a command whose range is `[lo, lo + len)` may leave: the one it found, or bytes of that range
written, and only where the whole range lies in `MEM` (R55, R65). -/
inductive StoresWithin (s : State) (lo len : Nat) : Memory → Prop where
  | untouched : StoresWithin s lo len s.mem
  | bytes {base : Nat} {bs : List Byte} (hin : lo + len ≤ s.memBytes) (hlo : lo ≤ base)
      (hhi : base + bs.length ≤ lo + len) : StoresWithin s lo len (s.mem.writeBytes base bs)
  | cells {cs : List Host.Cell} (hin : lo + len ≤ s.memBytes) (hcs : ∀ c ∈ cs, lo ≤ c.1 ∧ c.1 < lo + len) :
      StoresWithin s lo len (s.mem.writeAll cs)

/-- Whatever state the answer is, its memory differs only in the range of the command. -/
def StoresInRange (i : Instr) (s : State) (r : Result) : Prop :=
  ∀ t, r = .next t → StoresWithin s (storeRange s i).1 (storeRange s i).2 t.mem

namespace StoresInRange

variable {i j : Instr} {s t : State} {r r' : Result}

theorem completes (h : StoresWithin s (storeRange s i).1 (storeRange s i).2 t.mem) : StoresInRange i s (.next t) := by
  rintro _ ⟨⟩
  exact h

theorem fail {k : ErrKind} : StoresInRange i s (s.fail j k) := completes .untouched

theorem defect {k : ErrKind} {aux : Word} : StoresInRange i s (s.defect j k aux) := completes .untouched

/-- A check in front of the rest of the command, which may use that the check passed (R217). -/
theorem check {c : Prop} [Decidable c] (h : StoresInRange i s r) (h' : ¬ c → StoresInRange i s r') :
    StoresInRange i s (if c then r else r') := by
  split
  · exact h
  next hc => exact h' hc

end StoresInRange

open StoresInRange

/-- A bounds check that passed (R55). -/
theorem le_of_inBounds {s : State} {base len : Nat} (h : ¬ (!s.inBounds base len) = true) :
    base + len ≤ s.memBytes := by
  simpa using h

theorem le_of_rsLegal {n k : Nat} (h : ¬ (!rsLegal n k) = true) : k ≤ n := by
  have hlegal : k ≠ 0 ∧ k < n := by simpa [rsLegal] using h
  exact hlegal.2.le

theorem execGfinit_stores (s : State) : StoresInRange .gfinit s (execGfinit s) :=
  check (completes .untouched) fun _ => completes .untouched

theorem execRsenc_stores (ra : Reg) (n k : Nat) (s : State) :
    StoresInRange (.rsenc ra n k) s (execRsenc ra n k s) := by
  refine check defect fun _ => check fail fun hlegal => check defect fun hin => completes ?_
  have hk := le_of_rsLegal hlegal
  have hin := le_of_inBounds hin
  refine .bytes (?_ : s.num ra + (n - k) + k ≤ s.memBytes) (Nat.le_refl _) ?_
  · omega
  · rw [rsEncode_length]
    exact Nat.le_refl _

theorem execRsdec_stores (rd ra : Reg) (n k : Nat) (s : State) :
    StoresInRange (.rsdec rd ra n k) s (execRsdec rd ra n k s) := by
  refine check defect fun _ => check fail fun _ => check defect fun hin => ?_
  split
  · exact fail
  · refine completes (.cells (le_of_inBounds hin) fun c hc => ?_)
    have hrange := mem_diffFrom hc
    rwa [bytesAt_length] at hrange

theorem execBchfmt_stores (rd ra rb : Reg) (s : State) :
    StoresInRange (.bchfmt rd ra rb) s (execBchfmt rd ra rb s) := by
  unfold execBchfmt
  split
  · exact fail
  · exact completes .untouched

theorem execBchver_stores (rd ra : Reg) (s : State) : StoresInRange (.bchver rd ra) s (execBchver rd ra s) := by
  unfold execBchver
  split
  · exact fail
  · exact completes .untouched

theorem execDeintl_stores (rl ra rb : Reg) (ver : Nat) (lvl : EccLevel) (s : State) :
    StoresInRange (.deintl rl ra rb ver lvl) s (execDeintl rl ra rb ver lvl s) := by
  refine check fail fun _ => check fail fun hlen => check defect fun _ => check defect fun hin => check fail fun _ =>
    completes (.cells (le_of_inBounds hin) fun c hc => ?_)
  obtain ⟨q, hq, hc⟩ := List.mem_map.mp (List.of_mem_zip hc).1
  have hlt := mem_streamMap_lt hq
  have hlen : s.num rl = (s.blkEntry ver lvl).total := not_not.mp hlen
  simp only [storeRange]
  omega

theorem execIntl_stores (rl ra rb : Reg) (ver : Nat) (lvl : EccLevel) (s : State) :
    StoresInRange (.intl rl ra rb ver lvl) s (execIntl rl ra rb ver lvl s) := by
  refine check fail fun _ => check fail fun hlen => check defect fun _ => check defect fun hin => check fail fun _ =>
    completes (.bytes (le_of_inBounds hin) (Nat.le_refl _) ?_)
  rw [List.length_map, streamMap_length, ← not_not.mp hlen]
  exact Nat.le_refl _

theorem execThresh_stores (ra rb : Reg) (off : Int) (inv : Bool) (s : State) :
    StoresInRange (.thresh ra rb off inv) s (execThresh ra rb off inv s) := by
  refine check fail fun _ => check fail fun _ => check defect fun _ => check defect fun hin => check fail fun _ =>
    completes (.bytes (le_of_inBounds hin) (Nat.le_refl _) ?_)
  rw [State.bitmapOf, bitmap_length]
  exact Nat.le_refl _

/-- Every command stores only in its range, and nothing unless the range lies in `MEM`: its checks in order, then its
effect. -/
theorem exec_stores (i : Instr) (s : State) : StoresInRange i s (exec i s) := by
  cases i with
  | gfinit => exact execGfinit_stores s
  | gfadd => exact completes .untouched
  | gfmul | gfpow | gfexp => exact check defect fun _ => completes .untouched
  | gfdiv | gfinv | gflog => exact check defect fun _ => check defect fun _ => completes .untouched
  | rsenc ra n k => exact execRsenc_stores ra n k s
  | rsdec rd ra n k => exact execRsdec_stores rd ra n k s
  | bchfmt rd ra rb => exact execBchfmt_stores rd ra rb s
  | bchver rd ra => exact execBchver_stores rd ra s
  | blkinfo => exact check fail fun _ => completes .untouched
  | deintl rl ra rb ver lvl => exact execDeintl_stores rl ra rb ver lvl s
  | intl rl ra rb ver lvl => exact execIntl_stores rl ra rb ver lvl s
  | thresh ra rb off inv => exact execThresh_stores ra rb off inv s

/-! ## The form of memory -/

/-- The property `State.MemOk` of a memory and a bound on its addresses. -/
def MemoryOk (m : Memory) (n : Nat) : Prop := m.wf ∧ ∀ c ∈ m, c.1 < n

theorem memOk_iff (s : State) : s.MemOk ↔ MemoryOk s.mem s.memBytes :=
  ⟨fun ⟨hwf, hb⟩ => ⟨hwf, hb⟩, fun ⟨hwf, hb⟩ => ⟨hwf, hb⟩⟩

theorem MemoryOk.writeBytes {m : Memory} {n base : Nat} {bs : List Byte} (h : MemoryOk m n)
    (hin : base + bs.length ≤ n) : MemoryOk (m.writeBytes base bs) n :=
  ⟨Memory.writeBytes_wf h.1 base bs, Memory.writeBytes_bounded h.2 base bs hin⟩

theorem MemoryOk.writeAll {m : Memory} {n : Nat} {cs : List Host.Cell} (h : MemoryOk m n)
    (hin : ∀ c ∈ cs, c.1 < n) : MemoryOk (m.writeAll cs) n :=
  ⟨Memory.writeAll_wf h.1 cs, Memory.writeAll_bounded h.2 cs hin⟩

theorem StoresWithin.memoryOk {s : State} {lo len : Nat} {m : Memory} (h : StoresWithin s lo len m)
    (hs : MemoryOk s.mem s.memBytes) : MemoryOk m s.memBytes := by
  cases h with
  | untouched => exact hs
  | bytes hin hlo hhi => exact hs.writeBytes (hhi.trans hin)
  | cells hin hcs => exact hs.writeAll fun c hc => (hcs c hc).2.trans_le hin

theorem StepOutcome.memoryOk {s t : State} (h : StepOutcome s t) (hs : MemoryOk s.mem s.memBytes) :
    MemoryOk t.mem s.memBytes := by
  cases h with
  | idle | answered | illegal | regWrite | outOfBounds | acknowledge | reset => exact hs
  | csrWrite hp ha =>
    rw [setCsr_frame (s.taken _) _ _ ha]
    exact hs
  | memWrite hp ha => exact hs.writeBytes ha
  | command hp hr hd he => exact (exec_stores _ _ _ he).memoryOk hs

theorem step_memOk {s t : State} (h : step s = .next t) (hs : s.MemOk) : t.MemOk := by
  rw [memOk_iff] at hs ⊢
  rw [(step_sameParams h).1]
  exact (step_outcome h).memoryOk hs

/-! ## The invariant -/

theorem step_paramsOk {s t : State} (h : step s = .next t) (hs : s.ParamsOk) : t.ParamsOk := by
  obtain ⟨hbytes, htab⟩ := step_sameParams h
  obtain ⟨hpos, hle, hwf⟩ := hs
  exact ⟨hbytes ▸ hpos, hbytes ▸ hle, htab ▸ hwf⟩

/-- Settles O19: each of the five parts of the invariant is kept by every outcome of a step. -/
theorem everyStepKeepsTheInvariant : Obligations.EveryStepKeepsTheInvariant := by
  unfold Obligations.EveryStepKeepsTheInvariant
  intro s t hs h
  exact {
    error := (step_outcome h).errorOk hs.error
    tables := (step_outcome h).tablesOk hs.tables
    csr := (step_outcome h).csrOk hs.csr
    memory := step_memOk h hs.memory
    params := step_paramsOk h hs.params }

/-- A boot state has the invariant if its parameters are legal. -/
theorem boot_inv {memBytes : Nat} {blkTab : List Word} {script : List HostTx}
    (h : (State.boot memBytes blkTab script).ParamsOk) : (State.boot memBytes blkTab script).Inv where
  error := errorOk_of_ready rfl rfl rfl rfl
  tables hr := by simp [State.boot, State.reset] at hr
  csr := csrOk_of_same reset_csrOk ⟨rfl, rfl, rfl, rfl, rfl⟩
  memory := ⟨List.Pairwise.nil, by simp [State.boot, State.reset]⟩
  params := h

/-- The printed block table is legal (R172): a fact about its 160 words. -/
theorem blkTabWf_standardBlkTab : blkTabWf standardBlkTab = true := by
  decide +kernel

/-- Settles O20: reset is a boot with the model's own parameters and no script. -/
theorem invariantHoldsAtReset : Obligations.InvariantHoldsAtReset := by
  unfold Obligations.InvariantHoldsAtReset
  exact boot_inv (memBytes := Config.memBytes) (blkTab := standardBlkTab) (script := [])
    ⟨by decide, by decide, blkTabWf_standardBlkTab⟩

/-- What every step of a machine keeps, its runs keep. -/
theorem run_keeps {M : Host.Core} {P : M.State → Prop} (hstep : ∀ s t, P s → M.step s = .next t → P t) {k : Nat}
    {s t : M.State} (hs : P s) (h : M.run k s = .next t) : P t := by
  induction k generalizing s with
  | zero => cases h; exact hs
  | succ k ih =>
    rw [Host.Core.run] at h
    split at h
    next u hu => exact ih (hstep s u hs hu) h
    next => cases h
    next => cases h

theorem reachable_inv {s : State} (h : Reachable s) : s.Inv := by
  obtain ⟨memBytes, blkTab, script, k, hparams, hrun⟩ := h
  exact run_keeps (M := core) everyStepKeepsTheInvariant (boot_inv hparams) hrun

/-- `STATUS` has bits 1:0 and 8 only (R35). -/
theorem status_unnamed (s : State) : s.status &&& ~~~(0x103 : Word) = 0 := by
  unfold State.status
  cases s.run <;> cases s.tblRdy <;> decide

/-- `ERR` holds a code of R211, which has 8 bits (R36). -/
theorem err_unnamed {s : State} (h : s.ErrorOk) : s.err &&& ~~~(0xFF : Word) = 0 := by
  have hfailed : ∀ e ∈ [(4 : Word), 5, 6, 9, 10], e &&& ~~~(0xFF : Word) = 0 := by simp
  have hfatal : ∀ e ∈ [(0x80 : Word), 0x81, 0x82, 0x83], e &&& ~~~(0xFF : Word) = 0 := by simp
  cases hrun : s.run with
  | ready =>
    rw [h.ready_iff.2 hrun]
    exact BitVec.zero_and
  | failed => exact hfailed _ (h.failed_kind hrun)
  | fatal => exact hfatal _ (h.fatal_kind hrun)

/-- Settles O21: the invariant of every reachable state, read at the CSR addresses. -/
theorem reachableStatesMeetTheInvariant : Obligations.ReachableStatesMeetTheInvariant := by
  unfold Obligations.ReachableStatesMeetTheInvariant
  intro s hs
  obtain ⟨herror, htables, hcsr, hmem, -⟩ := reachable_inv hs
  exact ⟨herror.ready_iff, herror.failed_kind, herror.fatal_kind, htables,
    ⟨status_unnamed s, err_unnamed herror, hcsr.fmtMask_bits, hcsr.imgW_bits, hcsr.imgH_bits, hcsr.imgFmt_bits,
      hcsr.thrCfg_bits⟩,
    fun i => (s.reg i).isLt, hmem.wf, hmem.bounded⟩

end Sys2Proof.Proofs

/-!
PROOFS. The buffers in `MEM` (spec/20_memory.md): in which order a command checks its operands, and that it writes
nothing outside its range.
-/

namespace Sys2Proof.Proofs

open Sys2Proof Sys2Proof.Machine

/-! ## The conditions of the checks -/

theorem not_inBounds_iff (s : State) (base len : Nat) :
    (!s.inBounds base len) = true ↔ s.memBytes < base + len := by
  rw [Bool.not_eq_true', ← Bool.not_eq_true, inBounds_iff, not_le]

theorem overlap_iff (a la b lb : Nat) : overlap a la b lb = true ↔ a < b + lb ∧ b < a + la := by
  simp [overlap]

theorem not_verInRange_iff (ver : Nat) : (!verInRange ver) = true ↔ ver = 0 ∨ 40 < ver := by
  rw [Bool.not_eq_true', ← Bool.not_eq_true, verInRange_iff]
  omega

theorem not_rsLegal_iff (n k : Nat) : (!rsLegal n k) = true ↔ k = 0 ∨ n ≤ k := by
  simp only [rsLegal, Bool.not_eq_true', Bool.and_eq_false_iff, decide_eq_false_iff_not]
  omega

/-! ## The checks in order -/

/-- The first check of a chain either decides the answer, or the rest of the chain does (R217); the condition may be
written in two ways. -/
theorem check_decides {c c' : Prop} [Decidable c] [Decidable c'] {answer error rest : Result} {Q : Prop} (hc : c ↔ c')
    (h : answer = if c then error else rest) (hrest : answer = rest → Q) : if c' then answer = error else Q := by
  split
  next h' => exact h.trans (if_pos (hc.mpr h'))
  next h' => exact hrest (h.trans (if_neg (mt hc.mp h')))

/-- What `RSENC` and `RSDEC` check once the tables are ready, in front of `rest` (R121, R136). -/
def rsChecked (i : Instr) (ra : Reg) (n k : Nat) (s : State) (rest : Result) : Result :=
  if !rsLegal n k then s.fail i .invalidInput
  else if !s.inBounds (s.num ra) n then s.defect i .indexOutOfBounds (s.reg ra)
  else rest

theorem exec_eq_rsChecked {rd ra : Reg} {n k : Nat} {s : State} (hrdy : s.tblRdy = true) {i : Instr}
    (hi : i ∈ [Instr.rsenc ra n k, .rsdec rd ra n k]) : ∃ rest, exec i s = rsChecked i ra n k s rest := by
  have hready : ¬ (!s.tblRdy) = true := by simp [hrdy]
  rcases List.mem_pair.mp hi with rfl | rfl
  · exact ⟨_, if_neg hready⟩
  · exact ⟨_, if_neg hready⟩

/-- Settles O45: the parameter check stands in front of the bounds check. -/
theorem rsChecksParametersThenBounds : Obligations.RsChecksParametersThenBounds := by
  unfold Obligations.RsChecksParametersThenBounds
  intro rd ra n k s hrdy i hi
  obtain ⟨rest, hexec⟩ := exec_eq_rsChecked hrdy hi
  constructor
  · intro hillegal
    exact hexec.trans (if_pos ((not_rsLegal_iff n k).mpr hillegal))
  · intro hk hkn hout
    have hlegal : ¬ (!rsLegal n k) = true := by
      rw [not_rsLegal_iff]
      omega
    calc exec i s = rsChecked i ra n k s rest := hexec
      _ = if !s.inBounds (s.num ra) n then s.defect i .indexOutOfBounds (s.reg ra) else rest := if_neg hlegal
      _ = s.defect i .indexOutOfBounds (s.reg ra) := if_pos ((not_inBounds_iff _ _ _).mpr hout)

/-- What `DEINTL` and `INTL` check, in front of `rest` (R177, R178). -/
def interleaveChecked (i : Instr) (rl ra rb : Reg) (ver : Nat) (lvl : EccLevel) (s : State) (rest : Result) : Result :=
  if !verInRange ver then s.fail i .invalidInput
  else if s.num rl ≠ (s.blkEntry ver lvl).total then s.fail i .invalidInput
  else if !s.inBounds (s.num ra) (s.num rl) then s.defect i .indexOutOfBounds (s.reg ra)
  else if !s.inBounds (s.num rb) (s.num rl) then s.defect i .indexOutOfBounds (s.reg rb)
  else if overlap (s.num ra) (s.num rl) (s.num rb) (s.num rl) then s.fail i .invalidInput
  else rest

theorem exec_eq_interleaveChecked {rl ra rb : Reg} {ver : Nat} {lvl : EccLevel} {i : Instr}
    (hi : i ∈ [Instr.deintl rl ra rb ver lvl, .intl rl ra rb ver lvl]) (s : State) :
    ∃ rest, exec i s = interleaveChecked i rl ra rb ver lvl s rest := by
  rcases List.mem_pair.mp hi with rfl | rfl
  · exact ⟨_, rfl⟩
  · exact ⟨_, rfl⟩

/-- Settles O56: the five checks, each of which decides or leaves the answer to the next. -/
theorem interleaveChecksInOrder : Obligations.InterleaveChecksInOrder := by
  unfold Obligations.InterleaveChecksInOrder
  intro rl ra rb ver lvl s i hi
  obtain ⟨rest, hexec⟩ := exec_eq_interleaveChecked hi s
  refine check_decides (not_verInRange_iff ver) hexec fun hlength => ?_
  refine check_decides Iff.rfl hlength fun hsource => ?_
  refine check_decides (not_inBounds_iff s _ _) hsource fun hdest => ?_
  refine check_decides (not_inBounds_iff s _ _) hdest fun hoverlap => ?_
  intro ha hb
  exact hoverlap.trans (if_pos ((overlap_iff _ _ _ _).mpr ⟨ha, hb⟩))

/-- Settles O60: the five checks, each of which decides or leaves the answer to the next. -/
theorem threshChecksInOrder : Obligations.ThreshChecksInOrder := by
  unfold Obligations.ThreshChecksInOrder
  intro ra rb off inv s
  have hexec : exec (.thresh ra rb off inv) s = execThresh ra rb off inv s := rfl
  refine check_decides Iff.rfl hexec fun hsize => ?_
  refine check_decides Iff.rfl hsize fun himage => ?_
  refine check_decides (not_inBounds_iff s _ _) himage fun hbitmap => ?_
  refine check_decides (not_inBounds_iff s _ _) hbitmap fun hoverlap => ?_
  intro ha hb
  exact hoverlap.trans (if_pos ((overlap_iff _ _ _ _).mpr ⟨ha, hb⟩))

/-! ## What a command leaves unchanged -/

/-- A byte outside the range reads as before (R65). -/
theorem StoresWithin.read_outside {s : State} {lo len a : Nat} {m : Memory} (h : StoresWithin s lo len m)
    (ha : a < lo ∨ lo + len ≤ a) : m.read a = s.mem.read a := by
  cases h with
  | untouched => rfl
  | bytes hin hlo hhi => exact Memory.read_writeBytes_outside _ _ _ _ (by omega)
  | cells hin hcs =>
    refine Memory.read_congr (Memory.lookup_writeAll_outside _ _ _ fun c hc => ?_)
    have := hcs c hc
    omega

/-- `THRESH` on overlapping buffers takes an error: one of the first four checks decides, or the overlap check
(R56, R193). -/
theorem exec_thresh_of_not_disjoint (ra rb : Reg) (off : Int) (inv : Bool) {s : State}
    (h : ¬ disjoint (s.num ra) (s.width * s.height * bytesPerPixel s.pixFmt) (s.num rb) (s.width * s.height)) :
    ∃ k aux, exec (.thresh ra rb off inv) s = .next (s.takeError k (encode (.thresh ra rb off inv)) aux) := by
  obtain ⟨hdest, hsource⟩ := not_or.mp h
  have hchecks := threshChecksInOrder ra rb off inv s
  split_ifs at hchecks
  case neg => exact ⟨_, _, hchecks (not_le.mp hsource) (not_le.mp hdest)⟩
  all_goals exact ⟨_, _, hchecks⟩

/-- Settles O28: a command stores only in its range, and the bitmap of a `THRESH` that completes shares no byte with the
image. -/
theorem commandStoresOnlyInItsRange : Obligations.CommandStoresOnlyInItsRange := by
  have houtside : ∀ (i : Instr) (s t : State) (a : Nat), exec i s = .next t →
      (a < (storeRange s i).1 ∨ (storeRange s i).1 + (storeRange s i).2 ≤ a) → t.byteAt a = s.byteAt a :=
    fun i s t a h ha => (exec_stores i s t h).read_outside ha
  unfold Obligations.CommandStoresOnlyInItsRange
  refine ⟨houtside, fun ra rb off inv s t a h hlo hhi => ?_⟩
  by_cases hd : disjoint (s.num ra) (s.width * s.height * bytesPerPixel s.pixFmt) (s.num rb) (s.width * s.height)
  · refine houtside _ s t a h ?_
    exact hd.imp hhi.trans_le fun hbelow => hbelow.trans hlo
  · obtain ⟨k, aux, herror⟩ := exec_thresh_of_not_disjoint ra rb off inv hd
    obtain rfl := Host.Outcome.next.inj (h.symm.trans herror)
    rfl

end Sys2Proof.Proofs

/-!
PROOFS. Decoding and encoding (spec/30_encoding.md): the row of the opcode map a word selects, the fields of a word, and
what each format of R71 to R76 encodes and decodes.
-/

namespace Sys2Proof.Proofs

open Sys2Proof Sys2Proof.Machine

/-! ## The row a word selects (R77, R85) -/

section
variable {r r' : OpRow} {w : Word} {i : Instr}

/-- No two rows have the same opcode, so the opcode names the row. -/
theorem row_eq_of_op_eq (hr : r ∈ opTable) (hr' : r' ∈ opTable) (h : r.op = r'.op) : r = r' :=
  List.inj_on_of_nodup_map (f := OpRow.op) (by decide) hr hr' h

theorem find_row (hr : r ∈ opTable) (hop : r.op = slice w 31 24) :
    opTable.find? (fun r => r.op == slice w 31 24) = some r := by
  cases hf : opTable.find? (fun r => r.op == slice w 31 24) with
  | none => exact absurd hop (by simpa using List.find?_eq_none.mp hf r hr)
  | some r' =>
    have hop' : r'.op = slice w 31 24 := by simpa using List.find?_some hf
    rw [row_eq_of_op_eq (List.mem_of_find?_eq_some hf) hr (hop'.trans hop.symm)]

theorem decode_of_opcode (hr : r ∈ opTable) (hop : r.op = slice w 31 24) :
    decode w = if w &&& r.mask = r.pattern then .ok (r.operands w) else .error .nonZeroMustBeZeroField := by
  unfold decode
  rw [find_row hr hop]

theorem decode_of_no_opcode (h : ∀ r ∈ opTable, r.op ≠ slice w 31 24) : decode w = .error .unassignedOpcode := by
  have hnone : opTable.find? (fun r => r.op == slice w 31 24) = none := by simpa using h
  unfold decode
  rw [hnone]

/-- The three outcomes of `decode` with the condition of each: R85's procedure, the row by membership. -/
theorem decode_cases (w : Word) :
    (∀ r ∈ opTable, r.op ≠ slice w 31 24) ∧ decode w = .error .unassignedOpcode ∨
    ∃ r ∈ opTable, r.op = slice w 31 24 ∧
      (w &&& r.mask = r.pattern ∧ decode w = .ok (r.operands w) ∨
       w &&& r.mask ≠ r.pattern ∧ decode w = .error .nonZeroMustBeZeroField) := by
  by_cases h : ∀ r ∈ opTable, r.op ≠ slice w 31 24
  · exact .inl ⟨h, decode_of_no_opcode h⟩
  · push Not at h
    obtain ⟨r, hr, hop⟩ := h
    have hd := decode_of_opcode hr hop
    refine .inr ⟨r, hr, hop, ?_⟩
    split at hd
    next hm => exact .inl ⟨hm, hd⟩
    next hm => exact .inr ⟨hm, hd⟩

/-- Every mask covers the opcode byte, so a word that matches a row carries its opcode. -/
theorem op_eq_of_matches (hr : r ∈ opTable) (hm : w &&& r.mask = r.pattern) : r.op = slice w 31 24 := by
  have hrows : ∀ r ∈ opTable, r.mask.toNat / 2 ^ 24 = 2 ^ 8 - 1 ∧ r.pattern.toNat / 2 ^ 24 = r.op := by decide
  obtain ⟨hmask, hpattern⟩ := hrows r hr
  rw [← hpattern, ← hm, BitVec.toNat_and, Nat.and_div_two_pow, hmask, Nat.and_two_pow_sub_one_eq_mod]
  rfl

theorem decode_of_matches (hr : r ∈ opTable) (hm : w &&& r.mask = r.pattern) : decode w = .ok (r.operands w) := by
  rw [decode_of_opcode hr (op_eq_of_matches hr hm), if_pos hm]

theorem decode_eq_ok_iff : decode w = .ok i ↔ ∃ r ∈ opTable, w &&& r.mask = r.pattern ∧ i = r.operands w := by
  constructor
  · intro hd
    rcases decode_cases w with ⟨-, he⟩ | ⟨r, hr, -, ⟨hm, hok⟩ | ⟨-, he⟩⟩
    · cases hd.symm.trans he
    · exact ⟨r, hr, hm, Except.ok.inj (hd.symm.trans hok)⟩
    · cases hd.symm.trans he
  · rintro ⟨r, hr, hm, rfl⟩
    exact decode_of_matches hr hm

/-- A word that matches no row has no command, whatever the name of its defect (R78, R79). -/
theorem decode_error_of_no_match (h : ∀ r ∈ opTable, w &&& r.mask ≠ r.pattern) : ∃ e, decode w = .error e := by
  rcases decode_cases w with ⟨-, he⟩ | ⟨r, hr, -, ⟨hm, -⟩ | ⟨-, he⟩⟩
  · exact ⟨_, he⟩
  · exact absurd hm (h r hr)
  · exact ⟨_, he⟩

end

/-- Settles O3: the table by evaluation, the rest because every mask covers the opcode byte and no opcode
stands twice. -/
theorem wordSelectsRowIffMaskMatches : Obligations.WordSelectsRowIffMaskMatches := by
  unfold Obligations.WordSelectsRowIffMaskMatches
  refine ⟨rfl, fun w i => decode_eq_ok_iff, fun w r hr r' hr' hm hm' => ?_⟩
  exact (op_eq_of_matches hr hm).trans (op_eq_of_matches hr' hm').symm

/-- Settles O4: of the three outcomes of `decode`, each excludes the conditions of the other two. -/
theorem illegalWordsAreRejectedByName : Obligations.IllegalWordsAreRejectedByName := by
  unfold Obligations.IllegalWordsAreRejectedByName
  intro w
  refine ⟨⟨fun hd => ?_, decode_of_no_opcode⟩, fun hd => ?_, fun ⟨r, hr, hop, hm⟩ => ?_⟩
  · rcases decode_cases w with ⟨hnone, -⟩ | ⟨r, hr, hop, ⟨-, he⟩ | ⟨-, he⟩⟩
    · exact hnone
    · cases hd.symm.trans he
    · cases hd.symm.trans he
  · rcases decode_cases w with ⟨-, he⟩ | ⟨r, hr, hop, ⟨-, he⟩ | ⟨hm, -⟩⟩
    · cases hd.symm.trans he
    · cases hd.symm.trans he
    · exact ⟨r, hr, hop, hm⟩
  · rw [decode_of_opcode hr hop, if_neg hm]

/-- Settles O5: each word is decoded by evaluation. -/
theorem specExampleWordsDecode : Obligations.SpecExampleWordsDecode := by
  unfold Obligations.SpecExampleWordsDecode
  decide

/-- Settles O7: a word that matches no row does not decode, and `Issue` of it takes the shared error entry. -/
theorem illegalWordIsAFatalDefect : Obligations.IllegalWordIsAFatalDefect := by
  unfold Obligations.IllegalWordIsAFatalDefect
  intro s w rest hp hr hno
  obtain ⟨e, he⟩ := decode_error_of_no_match hno
  have hready : (s.taken rest).run = .ready := hr
  calc step s = (s.taken rest).issue w := step_transact hp
    _ = .next ((s.taken rest).illegal w) := by rw [State.issue, if_pos hready, he]
    _ = .next { s.taken rest with run := .fatal, err := 0x83, errCmd := w, errAux := 0 } := rfl

/-! ## The fields of a word (R70) -/

theorem slice_and (w m : Word) (hi lo : Nat) : slice (w &&& m) hi lo = slice w hi lo &&& slice m hi lo := by
  simp only [slice, BitVec.toNat_and, Nat.and_div_two_pow, Nat.and_mod_two_pow]

theorem regField_val (w : Word) (lo : Nat) : (regField w lo).val = w.toNat / 2 ^ lo % 2 ^ 4 := rfl

theorem regField_and (w m : Word) (lo : Nat) :
    (regField (w &&& m) lo).val = (regField w lo).val &&& (regField m lo).val := by
  simp only [regField_val, BitVec.toNat_and, Nat.and_div_two_pow, Nat.and_mod_two_pow]

/-- The five fields of R70 have these values in `w`. -/
structure HasFields (w : Word) (op f1 ra rb imm : Nat) : Prop where
  op : slice w 31 24 = op
  f1 : (regField w 20).val = f1
  ra : (regField w 16).val = ra
  rb : (regField w 12).val = rb
  imm : slice w 11 0 = imm

theorem hasFields_self (w : Word) :
    HasFields w (slice w 31 24) (regField w 20) (regField w 16) (regField w 12) (slice w 11 0) :=
  ⟨rfl, rfl, rfl, rfl, rfl⟩

theorem imm12_lt (w : Word) : slice w 11 0 < 4096 := Nat.mod_lt _ (by decide)

section
variable {w m : Word} {op f1 ra rb imm om fm am bm im : Nat}

theorem hasFields_fields (ho : op < 256) (h1 : f1 < 16) (ha : ra < 16) (hb : rb < 16) (hi : imm < 4096) :
    HasFields (fields op f1 ra rb imm) op f1 ra rb imm := by
  constructor <;> simp only [slice, regField_val, fields_toNat ho h1 ha hb hi] <;> omega

/-- The fields cover the word: no bit is left out. -/
theorem HasFields.fields_eq (h : HasFields w op f1 ra rb imm) : fields op f1 ra rb imm = w := by
  obtain ⟨rfl, rfl, rfl, rfl, rfl⟩ := h
  have hw := w.isLt
  apply BitVec.eq_of_toNat_eq
  simp only [fields, slice, regField_val, BitVec.toNat_ofNat]
  omega

theorem HasFields.and (h : HasFields w op f1 ra rb imm) (h' : HasFields m om fm am bm im) :
    HasFields (w &&& m) (op &&& om) (f1 &&& fm) (ra &&& am) (rb &&& bm) (imm &&& im) where
  op := by rw [slice_and, h.op, h'.op]
  f1 := by rw [regField_and, h.f1, h'.f1]
  ra := by rw [regField_and, h.ra, h'.ra]
  rb := by rw [regField_and, h.rb, h'.rb]
  imm := by rw [slice_and, h.imm, h'.imm]

end

/-! ### A field under the bits of a mask -/

/-- The bits above bit `k` that a mask of `j` bits selects. -/
theorem and_high_bits (x j k : Nat) : x &&& (2 ^ j - 1) * 2 ^ k = x / 2 ^ k % 2 ^ j * 2 ^ k := by
  simpa using and_high_low x (2 ^ j - 1) 0 k (Nat.two_pow_pos k)

theorem reg_and_fifteen (r : Reg) : r.val &&& 0xF = r.val := by
  rw [Nat.and_two_pow_sub_one_eq_mod r.val 4, Nat.mod_eq_of_lt r.isLt]

theorem op_and_mask (w : Word) : slice w 31 24 &&& 0xFF = slice w 31 24 := by
  rw [Nat.and_two_pow_sub_one_eq_mod _ 8, slice, Nat.mod_mod]

theorem imm12_and_mask (w : Word) : slice w 11 0 &&& 0xFFF = slice w 11 0 := by
  rw [Nat.and_two_pow_sub_one_eq_mod _ 12, slice, Nat.mod_mod]

/-! ## The rows as formats (R71 to R76) -/

/-- A row whose must-be-zero bits are `fm`, `am`, `bm` and `im` of the fields `f1`, `ra`, `rb` and `imm12` (R78). -/
def formatRow (mnemonic : String) (op fm am bm im : Nat) (operands : Word → Instr) : OpRow :=
  ⟨mnemonic, op, fields op 0 0 0 0, fields 0xFF fm am bm im, operands⟩

/-- Format R3 (R72). -/
def rowR3 (mnemonic : String) (op : Nat) (c : Reg → Reg → Reg → Instr) : OpRow :=
  formatRow mnemonic op 0 0 0 0xFFF fun w => c (regField w 20) (regField w 16) (regField w 12)

/-- Format R2 (R73). -/
def rowR2 (mnemonic : String) (op : Nat) (c : Reg → Reg → Instr) : OpRow :=
  formatRow mnemonic op 0 0 0xF 0xFFF fun w => c (regField w 20) (regField w 16)

/-- Format V of `DEINTL` and `INTL` (R75). -/
def rowStream (mnemonic : String) (op : Nat) (c : Reg → Reg → Reg → Nat → EccLevel → Instr) : OpRow :=
  formatRow mnemonic op 0 0 0 0xF00
    fun w => c (regField w 20) (regField w 16) (regField w 12) (slice w 5 0) (eclField w)

/-- `GFINIT`, format Z (R71). -/
def rowGfinit : OpRow := formatRow "GFINIT" 0x10 0xF 0xF 0xF 0xFFF fun _ => .gfinit

/-- `RSENC`, format M without `f1` (R74). -/
def rowRsenc : OpRow :=
  formatRow "RSENC" 0x20 0xF 0 0 0 fun w => .rsenc (regField w 16) (slice w 15 8) (slice w 7 0)

/-- `RSDEC`, format M (R74). -/
def rowRsdec : OpRow :=
  formatRow "RSDEC" 0x21 0 0 0 0 fun w => .rsdec (regField w 20) (regField w 16) (slice w 15 8) (slice w 7 0)

/-- `BLKINFO`, format V without `ra` and `rb` (R75). -/
def rowBlkinfo : OpRow :=
  formatRow "BLKINFO" 0x40 0 0xF 0xF 0xF00 fun w => .blkinfo (regField w 20) (slice w 5 0) (eclField w)

/-- `THRESH`, format T (R76). -/
def rowThresh : OpRow :=
  formatRow "THRESH" 0x50 0xF 0 0 0xE00
    fun w => .thresh (regField w 16) (regField w 12) (sext8 (slice w 7 0)) (slice w 8 8 == 1)

theorem opTable_eq_formats : opTable =
    [ rowGfinit, rowR3 "GFADD" 0x11 .gfadd, rowR3 "GFMUL" 0x12 .gfmul, rowR3 "GFDIV" 0x13 .gfdiv,
      rowR2 "GFINV" 0x14 .gfinv, rowR3 "GFPOW" 0x15 .gfpow, rowR2 "GFEXP" 0x16 .gfexp, rowR2 "GFLOG" 0x17 .gflog,
      rowRsenc, rowRsdec, rowR3 "BCHFMT" 0x30 .bchfmt, rowR2 "BCHVER" 0x31 .bchver,
      rowBlkinfo, rowStream "DEINTL" 0x41 .deintl, rowStream "INTL" 0x42 .intl, rowThresh ] := rfl

/-- A word of a format row: its opcode, and every must-be-zero field is zero (R78). -/
theorem HasFields.matches_iff {w : Word} {op op' f1 ra rb imm fm am bm im : Nat} {mnemonic : String}
    {operands : Word → Instr} (h : HasFields w op' f1 ra rb imm)
    (ho : op < 256 := by decide) (h1 : fm < 16 := by decide) (ha : am < 16 := by decide) (hb : bm < 16 := by decide)
    (hi : im < 4096 := by decide) :
    w &&& (formatRow mnemonic op fm am bm im operands).mask = (formatRow mnemonic op fm am bm im operands).pattern ↔
      op' = op ∧ f1 &&& fm = 0 ∧ ra &&& am = 0 ∧ rb &&& bm = 0 ∧ imm &&& im = 0 := by
  have hmask : HasFields (w &&& fields 0xFF fm am bm im) op' (f1 &&& fm) (ra &&& am) (rb &&& bm) (imm &&& im) := by
    have hop : op' &&& 0xFF = op' := h.op ▸ op_and_mask w
    simpa only [hop] using h.and (hasFields_fields (op := 0xFF) (by decide) h1 ha hb hi)
  constructor
  · intro heq
    have hpattern : HasFields (w &&& fields 0xFF fm am bm im) op 0 0 0 0 :=
      heq ▸ hasFields_fields ho (by decide) (by decide) (by decide) (by decide)
    exact ⟨hmask.op.symm.trans hpattern.op, hmask.f1.symm.trans hpattern.f1, hmask.ra.symm.trans hpattern.ra,
      hmask.rb.symm.trans hpattern.rb, hmask.imm.symm.trans hpattern.imm⟩
  · rintro ⟨rfl, hf1, hra, hrb, himm⟩
    rw [hf1, hra, hrb, himm] at hmask
    exact hmask.fields_eq.symm

/-- Every word of the row is the word of a well-formed command. -/
def RowEncodes (r : OpRow) : Prop :=
  ∀ w : Word, w &&& r.mask = r.pattern → (r.operands w).wf = true ∧ encode (r.operands w) = w

/-- The word of the command belongs to the row, and the row reads the command back from it. -/
def RowReads (r : OpRow) (i : Instr) : Prop := encode i &&& r.mask = r.pattern ∧ r.operands (encode i) = i

theorem RowReads.decode_encode {r : OpRow} {i : Instr} (h : RowReads r i)
    (hr : r ∈ opTable := by simp [opTable_eq_formats]) : decode (encode i) = .ok i := by
  obtain ⟨hm, hi⟩ := h
  rw [decode_of_matches hr hm, hi]

/-! ### Formats Z, R3 and R2 -/

theorem rowGfinit_encodes : RowEncodes rowGfinit := by
  intro w hm
  obtain ⟨hop, hf1, hra, hrb, himm⟩ := (hasFields_self w).matches_iff.mp hm
  rw [reg_and_fifteen] at hf1 hra hrb
  rw [imm12_and_mask] at himm
  exact ⟨rfl, HasFields.fields_eq ⟨hop, hf1, hra, hrb, himm⟩⟩

theorem rowGfinit_reads : RowReads rowGfinit .gfinit := ⟨rfl, rfl⟩

section
variable {mnemonic : String} {op : Nat}

theorem rowR3_encodes {c : Reg → Reg → Reg → Instr} (ho : op < 256 := by decide)
    (hwf : ∀ rd ra rb, (c rd ra rb).wf = true := by exact fun _ _ _ => rfl)
    (he : ∀ rd ra rb, encode (c rd ra rb) = fields op rd ra rb 0 := by exact fun _ _ _ => rfl) :
    RowEncodes (rowR3 mnemonic op c) := by
  intro w hm
  obtain ⟨hop, -, -, -, himm⟩ := ((hasFields_self w).matches_iff ho).mp hm
  rw [imm12_and_mask] at himm
  exact ⟨hwf _ _ _, (he _ _ _).trans (HasFields.fields_eq ⟨hop, rfl, rfl, rfl, himm⟩)⟩

theorem rowR3_reads (mnemonic : String) (op : Nat) (c : Reg → Reg → Reg → Instr) (rd ra rb : Reg)
    (ho : op < 256 := by decide)
    (he : encode (c rd ra rb) = fields op rd ra rb 0 := by rfl) : RowReads (rowR3 mnemonic op c) (c rd ra rb) := by
  have h : HasFields (encode (c rd ra rb)) op rd ra rb 0 :=
    he ▸ hasFields_fields ho rd.isLt ra.isLt rb.isLt (by decide)
  refine ⟨(h.matches_iff ho).mpr (by simp), ?_⟩
  simp only [rowR3, formatRow, Fin.ext h.f1, Fin.ext h.ra, Fin.ext h.rb]

theorem rowR2_encodes {c : Reg → Reg → Instr} (ho : op < 256 := by decide)
    (hwf : ∀ rd ra, (c rd ra).wf = true := by exact fun _ _ => rfl)
    (he : ∀ rd ra, encode (c rd ra) = fields op rd ra 0 0 := by exact fun _ _ => rfl) :
    RowEncodes (rowR2 mnemonic op c) := by
  intro w hm
  obtain ⟨hop, -, -, hrb, himm⟩ := ((hasFields_self w).matches_iff ho).mp hm
  rw [reg_and_fifteen] at hrb
  rw [imm12_and_mask] at himm
  exact ⟨hwf _ _, (he _ _).trans (HasFields.fields_eq ⟨hop, rfl, rfl, hrb, himm⟩)⟩

theorem rowR2_reads (mnemonic : String) (op : Nat) (c : Reg → Reg → Instr) (rd ra : Reg)
    (ho : op < 256 := by decide)
    (he : encode (c rd ra) = fields op rd ra 0 0 := by rfl) : RowReads (rowR2 mnemonic op c) (c rd ra) := by
  have h : HasFields (encode (c rd ra)) op rd ra 0 0 :=
    he ▸ hasFields_fields ho rd.isLt ra.isLt (by decide) (by decide)
  refine ⟨(h.matches_iff ho).mpr (by simp), ?_⟩
  simp only [rowR2, formatRow, Fin.ext h.f1, Fin.ext h.ra]

end

/-! ### Format M (R74) -/

/-- `n` and `k` in the place of `rb` and `imm12`. -/
theorem fieldsM_eq_fields (op f1 ra n k : Nat) :
    fieldsM op f1 ra n k = fields op f1 ra (n % 256 / 16) (n % 16 * 256 + k % 256) := by
  unfold fieldsM fields
  exact congrArg (BitVec.ofNat 32) (by omega)

theorem slice_n (w : Word) : slice w 15 8 = (regField w 12).val * 16 + slice w 11 0 / 256 := by
  simp only [slice, regField_val]
  omega

theorem slice_low_byte (w : Word) : slice w 7 0 = slice w 11 0 % 256 := by
  simp only [slice]
  omega

theorem low_byte_lt (w : Word) : slice w 7 0 < 256 := Nat.mod_lt _ (by decide)

theorem slice_n_lt (w : Word) : slice w 15 8 < 256 := Nat.mod_lt _ (by decide)

section
variable {w : Word} {op f1 ra n k : Nat}

theorem hasFields_fieldsM (n k : Nat) (ho : op < 256) (h1 : f1 < 16) (ha : ra < 16) :
    HasFields (fieldsM op f1 ra n k) op f1 ra (n % 256 / 16) (n % 16 * 256 + k % 256) :=
  fieldsM_eq_fields op f1 ra n k ▸ hasFields_fields ho h1 ha (by omega) (by omega)

theorem fieldsM_slices (hop : slice w 31 24 = op) (hf1 : (regField w 20).val = f1) :
    fieldsM op f1 (regField w 16) (slice w 15 8) (slice w 7 0) = w := by
  rw [fieldsM_eq_fields]
  have := imm12_lt w
  have := (regField w 12).isLt
  have hrb : (regField w 12).val = slice w 15 8 % 256 / 16 := by rw [slice_n]; omega
  have himm : slice w 11 0 = slice w 15 8 % 16 * 256 + slice w 7 0 % 256 := by rw [slice_n, slice_low_byte]; omega
  exact HasFields.fields_eq ⟨hop, hf1, rfl, hrb, himm⟩

theorem slice_n_fieldsM (hn : n < 256) (ho : op < 256) (h1 : f1 < 16) (ha : ra < 16) :
    slice (fieldsM op f1 ra n k) 15 8 = n := by
  have h := hasFields_fieldsM n k ho h1 ha
  rw [slice_n, h.rb, h.imm]
  omega

theorem slice_k_fieldsM (hk : k < 256) (ho : op < 256) (h1 : f1 < 16) (ha : ra < 16) :
    slice (fieldsM op f1 ra n k) 7 0 = k := by
  have h := hasFields_fieldsM n k ho h1 ha
  rw [slice_low_byte, h.imm]
  omega

end

theorem rowRsenc_encodes : RowEncodes rowRsenc := by
  intro w hm
  obtain ⟨hop, hf1, -, -, -⟩ := (hasFields_self w).matches_iff.mp hm
  rw [reg_and_fifteen] at hf1
  exact ⟨by simp [rowRsenc, formatRow, Instr.wf, slice_n_lt, low_byte_lt], fieldsM_slices hop hf1⟩

theorem rowRsenc_reads (ra : Reg) {n k : Nat} (hn : n < 256) (hk : k < 256) : RowReads rowRsenc (.rsenc ra n k) := by
  have h : HasFields (encode (.rsenc ra n k)) 0x20 0 ra _ _ :=
    hasFields_fieldsM n k (by decide) (by decide) ra.isLt
  refine ⟨h.matches_iff.mpr (by simp), ?_⟩
  have hnf : slice (encode (.rsenc ra n k)) 15 8 = n := slice_n_fieldsM hn (by decide) (by decide) ra.isLt
  have hkf : slice (encode (.rsenc ra n k)) 7 0 = k := slice_k_fieldsM hk (by decide) (by decide) ra.isLt
  simp only [rowRsenc, formatRow, Fin.ext h.ra, hnf, hkf]

theorem rowRsdec_encodes : RowEncodes rowRsdec := by
  intro w hm
  obtain ⟨hop, -, -, -, -⟩ := (hasFields_self w).matches_iff.mp hm
  exact ⟨by simp [rowRsdec, formatRow, Instr.wf, slice_n_lt, low_byte_lt], fieldsM_slices hop rfl⟩

theorem rowRsdec_reads (rd ra : Reg) {n k : Nat} (hn : n < 256) (hk : k < 256) :
    RowReads rowRsdec (.rsdec rd ra n k) := by
  have h : HasFields (encode (.rsdec rd ra n k)) 0x21 rd ra _ _ :=
    hasFields_fieldsM n k (by decide) rd.isLt ra.isLt
  refine ⟨h.matches_iff.mpr (by simp), ?_⟩
  have hnf : slice (encode (.rsdec rd ra n k)) 15 8 = n := slice_n_fieldsM hn (by decide) rd.isLt ra.isLt
  have hkf : slice (encode (.rsdec rd ra n k)) 7 0 = k := slice_k_fieldsM hk (by decide) rd.isLt ra.isLt
  simp only [rowRsdec, formatRow, Fin.ext h.f1, Fin.ext h.ra, hnf, hkf]

/-! ### Format V (R75) -/

theorem ord_ofOrd {n : Nat} (h : n < 4) : (EccLevel.ofOrd n).ord = n := by
  interval_cases n <;> rfl

theorem and_immV_mask (imm : Nat) : imm &&& 0xF00 = imm / 256 % 16 * 256 := and_high_bits imm 4 8

theorem slice_ver (w : Word) : slice w 5 0 = slice w 11 0 % 64 := by
  simp only [slice]
  omega

theorem slice_ver_lt (w : Word) : slice w 5 0 < 64 := Nat.mod_lt _ (by decide)

theorem slice_ecl (w : Word) : slice w 7 6 = slice w 11 0 / 64 % 4 := by
  simp only [slice]
  omega

theorem immV_and_mask (ver : Nat) (lvl : EccLevel) : immV ver lvl &&& 0xF00 = 0 := by
  have := ord_lt lvl
  rw [and_immV_mask, immV]
  omega

/-- The version and the level cover `imm12` when its must-be-zero bits are zero. -/
theorem immV_slices {w : Word} (h : slice w 11 0 &&& 0xF00 = 0) : slice w 11 0 = immV (slice w 5 0) (eclField w) := by
  have := imm12_lt w
  rw [and_immV_mask] at h
  rw [immV, eclField, ord_ofOrd (by rw [slice_ecl]; omega), slice_ecl, slice_ver]
  omega

section
variable {w : Word} {op f1 ra rb ver : Nat} {lvl : EccLevel}

theorem HasFields.slice_ver_eq (h : HasFields w op f1 ra rb (immV ver lvl)) (hv : ver < 64) : slice w 5 0 = ver := by
  rw [slice_ver, h.imm, immV]
  omega

theorem HasFields.eclField_eq (h : HasFields w op f1 ra rb (immV ver lvl)) : eclField w = lvl := by
  have hord : slice w 7 6 = lvl.ord := by
    have := ord_lt lvl
    rw [slice_ecl, h.imm, immV]
    omega
  rw [eclField, hord, ofOrd_ord]

end

theorem rowBlkinfo_encodes : RowEncodes rowBlkinfo := by
  intro w hm
  obtain ⟨hop, -, hra, hrb, himm⟩ := (hasFields_self w).matches_iff.mp hm
  rw [reg_and_fifteen] at hra hrb
  exact ⟨decide_eq_true (slice_ver_lt w), HasFields.fields_eq ⟨hop, rfl, hra, hrb, immV_slices himm⟩⟩

theorem rowBlkinfo_reads (rd : Reg) {ver : Nat} (lvl : EccLevel) (hv : ver < 64) :
    RowReads rowBlkinfo (.blkinfo rd ver lvl) := by
  have h : HasFields (encode (.blkinfo rd ver lvl)) 0x40 rd 0 0 (immV ver lvl) :=
    hasFields_fields (by decide) rd.isLt (by decide) (by decide) (immV_lt ver lvl)
  refine ⟨h.matches_iff.mpr (by simp [immV_and_mask]), ?_⟩
  simp only [rowBlkinfo, formatRow, Fin.ext h.f1, h.slice_ver_eq hv, h.eclField_eq]

section
variable {mnemonic : String} {op : Nat}

theorem rowStream_encodes {c : Reg → Reg → Reg → Nat → EccLevel → Instr} (ho : op < 256 := by decide)
    (hwf : ∀ rl ra rb ver lvl, (c rl ra rb ver lvl).wf = decide (ver < 64) := by exact fun _ _ _ _ _ => rfl)
    (he : ∀ rl ra rb ver lvl, encode (c rl ra rb ver lvl) = fields op rl ra rb (immV ver lvl) := by
      exact fun _ _ _ _ _ => rfl) :
    RowEncodes (rowStream mnemonic op c) := by
  intro w hm
  obtain ⟨hop, -, -, -, himm⟩ := ((hasFields_self w).matches_iff ho).mp hm
  refine ⟨(hwf _ _ _ _ _).trans (decide_eq_true (slice_ver_lt w)), (he _ _ _ _ _).trans ?_⟩
  exact HasFields.fields_eq ⟨hop, rfl, rfl, rfl, immV_slices himm⟩

theorem rowStream_reads (mnemonic : String) (op : Nat) (c : Reg → Reg → Reg → Nat → EccLevel → Instr)
    (rl ra rb : Reg) {ver : Nat} (lvl : EccLevel) (hv : ver < 64) (ho : op < 256 := by decide)
    (he : encode (c rl ra rb ver lvl) = fields op rl ra rb (immV ver lvl) := by rfl) :
    RowReads (rowStream mnemonic op c) (c rl ra rb ver lvl) := by
  have h : HasFields (encode (c rl ra rb ver lvl)) op rl ra rb (immV ver lvl) :=
    he ▸ hasFields_fields ho rl.isLt ra.isLt rb.isLt (immV_lt ver lvl)
  refine ⟨(h.matches_iff ho).mpr (by simp [immV_and_mask]), ?_⟩
  simp only [rowStream, formatRow, Fin.ext h.f1, Fin.ext h.ra, Fin.ext h.rb, h.slice_ver_eq hv, h.eclField_eq]

end

/-! ### Format T (R76) -/

theorem off8_sext8 {v : Nat} (h : v < 256) : off8 (sext8 v) = v := by
  unfold off8 sext8
  split <;> omega

/-- A sign-extended byte is an offset that fits its field. -/
theorem sext8_bounds {v : Nat} (h : v < 256) : -128 ≤ sext8 v ∧ sext8 v ≤ 127 := by
  unfold sext8
  split <;> omega

theorem off8_lt (off : Int) : off8 off < 256 := by
  unfold off8
  omega

theorem and_immT_mask (imm : Nat) : imm &&& 0xE00 = imm / 512 % 8 * 512 := and_high_bits imm 3 9

theorem slice_inv (w : Word) : slice w 8 8 = slice w 11 0 / 256 % 2 := by
  simp only [slice]
  omega

theorem immT_and_mask (off : Int) (inv : Bool) : immT off inv &&& 0xE00 = 0 := by
  have := off8_lt off
  have := inv.toNat_le
  rw [and_immT_mask, immT]
  omega

/-- The offset and the polarity cover `imm12` when its must-be-zero bits are zero. -/
theorem immT_slices {w : Word} (h : slice w 11 0 &&& 0xE00 = 0) :
    slice w 11 0 = immT (sext8 (slice w 7 0)) (slice w 8 8 == 1) := by
  have := imm12_lt w
  have hinv : (slice w 8 8 == 1).toNat = slice w 8 8 := by
    rcases Nat.mod_two_eq_zero_or_one (slice w 11 0 / 256) with h | h <;> rw [slice_inv, h] <;> rfl
  rw [and_immT_mask] at h
  rw [immT, off8_sext8 (low_byte_lt w), hinv, slice_inv, slice_low_byte]
  omega

section
variable {w : Word} {op f1 ra rb : Nat} {off : Int} {inv : Bool}

theorem HasFields.slice_off8_eq (h : HasFields w op f1 ra rb (immT off inv)) : slice w 7 0 = off8 off := by
  have := off8_lt off
  rw [slice_low_byte, h.imm, immT]
  omega

theorem HasFields.slice_inv_eq (h : HasFields w op f1 ra rb (immT off inv)) : (slice w 8 8 == 1) = inv := by
  have hbit : slice w 8 8 = inv.toNat := by
    have := off8_lt off
    have := inv.toNat_le
    rw [slice_inv, h.imm, immT]
    omega
  rw [hbit]
  cases inv <;> rfl

end

theorem rowThresh_encodes : RowEncodes rowThresh := by
  intro w hm
  obtain ⟨hop, hf1, -, -, himm⟩ := (hasFields_self w).matches_iff.mp hm
  rw [reg_and_fifteen] at hf1
  have hoff := sext8_bounds (low_byte_lt w)
  exact ⟨by simpa [rowThresh, formatRow, Instr.wf] using hoff,
    HasFields.fields_eq ⟨hop, hf1, rfl, rfl, immT_slices himm⟩⟩

theorem rowThresh_reads (ra rb : Reg) {off : Int} (inv : Bool) (hlo : -128 ≤ off) (hhi : off ≤ 127) :
    RowReads rowThresh (.thresh ra rb off inv) := by
  have h : HasFields (encode (.thresh ra rb off inv)) 0x50 0 ra rb (immT off inv) :=
    hasFields_fields (by decide) (by decide) ra.isLt rb.isLt (immT_lt off inv)
  refine ⟨h.matches_iff.mpr (by simp [immT_and_mask]), ?_⟩
  simp only [rowThresh, formatRow, Fin.ext h.ra, Fin.ext h.rb, h.slice_off8_eq, h.slice_inv_eq, sext8_off8 hlo hhi]

/-! ## The two round trips -/

/-- Settles O1: for each command, its row reads it back from its word. -/
theorem decodeEncodeRoundTrip : Obligations.DecodeEncodeRoundTrip := by
  unfold Obligations.DecodeEncodeRoundTrip
  intro i hwf
  cases i with
  | gfinit => exact rowGfinit_reads.decode_encode
  | gfadd rd ra rb => exact (rowR3_reads "GFADD" 0x11 .gfadd rd ra rb).decode_encode
  | gfmul rd ra rb => exact (rowR3_reads "GFMUL" 0x12 .gfmul rd ra rb).decode_encode
  | gfdiv rd ra rb => exact (rowR3_reads "GFDIV" 0x13 .gfdiv rd ra rb).decode_encode
  | gfinv rd ra => exact (rowR2_reads "GFINV" 0x14 .gfinv rd ra).decode_encode
  | gfpow rd ra rb => exact (rowR3_reads "GFPOW" 0x15 .gfpow rd ra rb).decode_encode
  | gfexp rd ra => exact (rowR2_reads "GFEXP" 0x16 .gfexp rd ra).decode_encode
  | gflog rd ra => exact (rowR2_reads "GFLOG" 0x17 .gflog rd ra).decode_encode
  | rsenc ra n k =>
    obtain ⟨hn, hk⟩ : n < 256 ∧ k < 256 := by simpa [Instr.wf] using hwf
    exact (rowRsenc_reads ra hn hk).decode_encode
  | rsdec rd ra n k =>
    obtain ⟨hn, hk⟩ : n < 256 ∧ k < 256 := by simpa [Instr.wf] using hwf
    exact (rowRsdec_reads rd ra hn hk).decode_encode
  | bchfmt rd ra rb => exact (rowR3_reads "BCHFMT" 0x30 .bchfmt rd ra rb).decode_encode
  | bchver rd ra => exact (rowR2_reads "BCHVER" 0x31 .bchver rd ra).decode_encode
  | blkinfo rd ver lvl => exact (rowBlkinfo_reads rd lvl (of_decide_eq_true hwf)).decode_encode
  | deintl rl ra rb ver lvl =>
    exact (rowStream_reads "DEINTL" 0x41 .deintl rl ra rb lvl (of_decide_eq_true hwf)).decode_encode
  | intl rl ra rb ver lvl =>
    exact (rowStream_reads "INTL" 0x42 .intl rl ra rb lvl (of_decide_eq_true hwf)).decode_encode
  | thresh ra rb off inv =>
    obtain ⟨hlo, hhi⟩ : -128 ≤ off ∧ off ≤ 127 := by simpa [Instr.wf] using hwf
    exact (rowThresh_reads ra rb inv hlo hhi).decode_encode

theorem opTable_encodes : ∀ r ∈ opTable, RowEncodes r := by
  rw [opTable_eq_formats]
  simp only [List.forall_mem_cons]
  exact ⟨rowGfinit_encodes, rowR3_encodes, rowR3_encodes, rowR3_encodes, rowR2_encodes, rowR3_encodes, rowR2_encodes,
    rowR2_encodes, rowRsenc_encodes, rowRsdec_encodes, rowR3_encodes, rowR2_encodes, rowBlkinfo_encodes,
    rowStream_encodes, rowStream_encodes, rowThresh_encodes, fun _ h => nomatch h⟩

/-- Settles O2: the row the word decodes by gives back its command's word. -/
theorem decodedWordIsItsEncoding : Obligations.DecodedWordIsItsEncoding := by
  unfold Obligations.DecodedWordIsItsEncoding
  intro w i hd
  obtain ⟨r, hr, hm, rfl⟩ := decode_eq_ok_iff.mp hd
  exact opTable_encodes r hr w hm

end Sys2Proof.Proofs

/-!
PROOFS. The field (spec/40_gf.md R90 to R93, R103): the multiplier is linear in each operand and commutes with `xtime`,
so on powers of `alpha` it adds exponents; the 255 powers are the non-zero bytes; the laws follow.
-/

namespace Sys2Proof.Proofs

open Sys2Proof Sys2Proof.Machine

/-! ## The multiplier is linear in each operand (R92) -/

/-- A loop over sums is the sum of two loops when each round is. -/
theorem foldl_xor {n : Nat} {f g h : BitVec n → Nat → BitVec n}
    (hround : ∀ p q i, h (p ^^^ q) i = f p i ^^^ g q i) (l : List Nat) (p q : BitVec n) :
    l.foldl h (p ^^^ q) = l.foldl f p ^^^ l.foldl g q := by
  induction l generalizing p q with
  | nil => rfl
  | cons i l ih => rw [List.foldl_cons, hround, ih, List.foldl_cons, List.foldl_cons]

/-- A conditional xor with one constant, the condition a sum. -/
theorem ite_xor_condition {n : Nat} (c d : Bool) (p q x : BitVec n) :
    (if (c ^^ d) = true then (p ^^^ q) ^^^ x else p ^^^ q) =
      (if c = true then p ^^^ x else p) ^^^ (if d = true then q ^^^ x else q) := by
  have hcancel : (p ^^^ x) ^^^ (q ^^^ x) = p ^^^ q := by
    rw [BitVec.xor_comm q, BitVec.xor_assoc, ← BitVec.xor_assoc x, BitVec.xor_self, BitVec.zero_xor]
  cases c <;> cases d
  case false.false => rfl
  case false.true => exact BitVec.xor_assoc p q x
  case true.false => exact (by ac_rfl : (p ^^^ q) ^^^ x = (p ^^^ x) ^^^ q)
  case true.true => exact hcancel.symm

/-- A conditional xor with a sum, the condition the same. -/
theorem ite_xor_operand {n : Nat} (c : Bool) (p q x y : BitVec n) :
    (if c = true then (p ^^^ q) ^^^ (x ^^^ y) else p ^^^ q) =
      (if c = true then p ^^^ x else p) ^^^ (if c = true then q ^^^ y else q) := by
  cases c
  case false => rfl
  case true => exact (by ac_rfl : (p ^^^ q) ^^^ (x ^^^ y) = (p ^^^ x) ^^^ (q ^^^ y))

theorem clmul_xor (a b c : Byte) : clmul a (b ^^^ c) = clmul a b ^^^ clmul a c := by
  refine foldl_xor (fun p q i => ?_) _ 0 0
  rw [BitVec.getLsbD_xor, ite_xor_condition]

theorem xor_clmul (a b c : Byte) : clmul (a ^^^ b) c = clmul a c ^^^ clmul b c := by
  refine foldl_xor (fun p q i => ?_) _ 0 0
  rw [BitVec.setWidth_xor, BitVec.shiftLeft_xor_distrib, ite_xor_operand]

theorem reduce_xor (p q : BitVec 15) : reduce (p ^^^ q) = reduce p ^^^ reduce q := by
  rw [reduce, foldl_xor (fun p q i => ?_) _ p q, BitVec.setWidth_xor, reduce, reduce]
  rw [BitVec.getLsbD_xor, ite_xor_condition]

theorem gmul_xor (a b c : Byte) : gmul a (b ^^^ c) = gmul a b ^^^ gmul a c := by
  rw [gmul, clmul_xor, reduce_xor, gmul, gmul]

theorem xor_gmul (a b c : Byte) : gmul (a ^^^ b) c = gmul a c ^^^ gmul b c := by
  rw [gmul, xor_clmul, reduce_xor, gmul, gmul]

theorem xtime_xor (a b : Byte) : xtime (a ^^^ b) = xtime a ^^^ xtime b := by
  simp only [xtime]
  rw [BitVec.setWidth_xor, BitVec.shiftLeft_xor_distrib, BitVec.getLsbD_xor, ite_xor_condition, BitVec.setWidth_xor]

theorem gmul_zero (a : Byte) : gmul a 0 = 0 := by
  simpa using gmul_xor a 0 0

theorem zero_gmul (a : Byte) : gmul 0 a = 0 := by
  simpa using xor_gmul 0 0 a

/-! ## The multiplier commutes with `xtime` (R93) -/

/-- A byte is the sum of its bits. -/
theorem eq_xor_bits (a : Byte) :
    a = (List.finRange 8).foldr (fun (i : Fin 8) p => (if a.getLsbD i then 1#8 <<< i.val else 0) ^^^ p) 0 := by
  revert a
  decide

/-- What holds for the eight single bits and for sums holds for every byte. -/
theorem byte_induction {P : Byte → Prop} (hbit : ∀ i : Fin 8, P (1#8 <<< i.val))
    (hxor : ∀ a b, P a → P b → P (a ^^^ b)) (a : Byte) : P a := by
  have hzero : P 0 := hxor _ _ (hbit 0) (hbit 0)
  rw [eq_xor_bits a]
  generalize List.finRange 8 = l
  induction l with
  | nil => exact hzero
  | cons i l ih =>
    refine hxor _ _ ?_ ih
    split
    · exact hbit i
    · exact hzero

/-- The 64 products of single bits. -/
theorem gmul_xtime_bits : ∀ i j : Fin 8,
    gmul (1#8 <<< i.val) (xtime (1#8 <<< j.val)) = xtime (gmul (1#8 <<< i.val) (1#8 <<< j.val)) := by
  decide

theorem gmul_xtime (a b : Byte) : gmul a (xtime b) = xtime (gmul a b) := by
  induction a using byte_induction with
  | hxor a a' ha ha' => rw [xor_gmul, ha, ha', xor_gmul, xtime_xor]
  | hbit i =>
    induction b using byte_induction with
    | hxor b b' hb hb' => rw [xtime_xor, gmul_xor, hb, hb', gmul_xor, xtime_xor]
    | hbit j => exact gmul_xtime_bits i j

theorem gmul_one (a : Byte) : gmul a 1 = a := by
  induction a using byte_induction with
  | hxor a b ha hb => rw [xor_gmul, ha, hb]
  | hbit i => exact (by decide : ∀ i : Fin 8, gmul (1#8 <<< i.val) 1 = 1#8 <<< i.val) i

theorem xtime_eq_gmul (a : Byte) : xtime a = gmul a 2 :=
  calc xtime a = xtime (gmul a 1) := by rw [gmul_one]
    _ = gmul a (xtime 1) := (gmul_xtime a 1).symm
    _ = gmul a 2 := rfl

/-! ## The powers of `alpha` (R91) -/

@[simp] theorem alphaPow_zero : alphaPow 0 = 1 := rfl

theorem alphaPow_succ (i : Nat) : alphaPow (i + 1) = xtime (alphaPow i) := rfl

/-- On powers of `alpha` the multiplier adds the exponents. -/
theorem gmul_alphaPow (i j : Nat) : gmul (alphaPow i) (alphaPow j) = alphaPow (i + j) := by
  induction j with
  | zero => exact gmul_one _
  | succ j ih => rw [alphaPow_succ, gmul_xtime, ih, ← alphaPow_succ, Nat.add_assoc]

/-- The list of powers from `alpha^k` on. -/
theorem powersFrom_alphaPow (n k : Nat) :
    powersFrom n (alphaPow k) = (List.range n).map fun i => alphaPow (k + i) := by
  induction n generalizing k with
  | zero => rfl
  | succ n ih =>
    rw [powersFrom, ← alphaPow_succ, ih, List.range_succ_eq_map, List.map_cons, List.map_map]
    simp only [Function.comp_def, Nat.add_zero, Nat.succ_eq_add_one, Nat.add_assoc, Nat.add_comm 1]

theorem powersFrom_one (n : Nat) : powersFrom n 1 = (List.range n).map alphaPow := by
  simpa only [alphaPow_zero, Nat.zero_add] using powersFrom_alphaPow n 0

/-- The order of `alpha` divides 255. -/
theorem alphaPow_255 : alphaPow 255 = 1 := by
  decide +kernel

/-- No power between is 1, read off the list of the 254 powers from `alpha` on. -/
theorem one_notMem_powersFrom_one : (1 : Byte) ∉ powersFrom 254 (alphaPow 1) := by
  decide +kernel

theorem alphaPow_ne_one {d : Nat} (h0 : 0 < d) (h : d < 255) : alphaPow d ≠ 1 := by
  intro hd
  refine one_notMem_powersFrom_one ?_
  rw [powersFrom_alphaPow, List.mem_map]
  exact ⟨d - 1, List.mem_range.mpr (by omega), by rw [Nat.add_sub_cancel' h0, hd]⟩

theorem alphaPow_mul_255 (m : Nat) : alphaPow (255 * m) = 1 := by
  induction m with
  | zero => rfl
  | succ m ih => rw [Nat.mul_succ, ← gmul_alphaPow, ih, alphaPow_255, gmul_one]

/-- An exponent counts modulo 255. -/
theorem alphaPow_mod (i : Nat) : alphaPow (i % 255) = alphaPow i :=
  calc alphaPow (i % 255) = gmul (alphaPow (i % 255)) (alphaPow (255 * (i / 255))) := by
        rw [alphaPow_mul_255, gmul_one]
    _ = alphaPow i := by rw [gmul_alphaPow, Nat.mod_add_div]

theorem alphaPow_congr {i j : Nat} (h : i % 255 = j % 255) : alphaPow i = alphaPow j := by
  rw [← alphaPow_mod i, h, alphaPow_mod]

/-- Two equal powers below the order would, multiplied up to `alpha^255`, give a smaller power that is 1. -/
theorem alphaPow_ne_of_lt {i j : Nat} (hij : i < j) (hj : j < 255) : alphaPow i ≠ alphaPow j := by
  intro h
  refine alphaPow_ne_one (d := j - i) (by omega) (by omega) ?_
  calc alphaPow (j - i) = alphaPow (j + (255 - i)) := alphaPow_congr (by omega)
    _ = alphaPow (i + (255 - i)) := by rw [← gmul_alphaPow, ← h, gmul_alphaPow]
    _ = 1 := by rw [Nat.add_sub_cancel' (by omega), alphaPow_255]

theorem alphaPow_injOn {i j : Nat} (hi : i < 255) (hj : j < 255) (h : alphaPow i = alphaPow j) : i = j := by
  rcases Nat.lt_trichotomy i j with hij | hij | hij
  · exact absurd h (alphaPow_ne_of_lt hij hj)
  · exact hij
  · exact absurd h.symm (alphaPow_ne_of_lt hij hi)

theorem alphaPow_ne_zero (i : Nat) : alphaPow i ≠ 0 := by
  intro h
  have hone : alphaPow (i + 254 * i) = 1 := by
    rw [← alphaPow_mul_255 i]
    congr 1
    omega
  rw [← gmul_alphaPow, h, zero_gmul] at hone
  exact absurd hone (by decide)

/-- A repeated product of a power of `alpha` multiplies its exponent (R100). -/
theorem gpow_alphaPow (l e : Nat) : gpow (alphaPow l) e = alphaPow (l * e) := by
  induction e with
  | zero => rfl
  | succ e ih => rw [gpow, ih, gmul_alphaPow, Nat.mul_succ]

theorem gpow_zero_base {e : Nat} (he : e ≠ 0) : gpow 0 e = 0 := by
  obtain ⟨e, rfl⟩ := Nat.exists_eq_succ_of_ne_zero he
  exact gmul_zero _

theorem byte_toNat_pos {a : Byte} (h : a ≠ 0) : 0 < a.toNat :=
  Nat.pos_of_ne_zero fun h0 => h (BitVec.eq_of_toNat_eq h0)

/-- Every non-zero byte is a power of `alpha`: the 255 powers are 255 different non-zero bytes. -/
theorem exists_alphaPow {a : Byte} (h : a ≠ 0) : ∃ i < 255, alphaPow i = a := by
  have hmaps : Set.MapsTo (fun i => (alphaPow i).toNat) (Finset.range 255) (Finset.Icc 1 255) := fun i _ =>
    Finset.mem_coe.mpr (Finset.mem_Icc.mpr
      ⟨byte_toNat_pos (alphaPow_ne_zero i), Nat.le_of_lt_succ (alphaPow i).isLt⟩)
  have hinj : Set.InjOn (fun i => (alphaPow i).toNat) (Finset.range 255) := fun i hi j hj hij =>
    alphaPow_injOn (Finset.mem_range.mp hi) (Finset.mem_range.mp hj) (BitVec.eq_of_toNat_eq hij)
  obtain ⟨i, hi, hia⟩ := Finset.surjOn_of_injOn_of_card_le _ hmaps hinj (by simp)
    (Finset.mem_coe.mpr (Finset.mem_Icc.mpr ⟨byte_toNat_pos h, Nat.le_of_lt_succ a.isLt⟩))
  exact ⟨i, Finset.mem_range.mp hi, BitVec.eq_of_toNat_eq hia⟩

/-- A byte is zero or a power of `alpha`, the case split of the field laws. -/
theorem eq_zero_or_alphaPow (a : Byte) : a = 0 ∨ ∃ i, a = alphaPow i := by
  by_cases h : a = 0
  · exact .inl h
  · obtain ⟨i, -, hi⟩ := exists_alphaPow h
    exact .inr ⟨i, hi.symm⟩

/-! ## The laws of the field (R92, R103) -/

theorem gmul_comm (a b : Byte) : gmul a b = gmul b a := by
  rcases eq_zero_or_alphaPow a with rfl | ⟨i, rfl⟩
  · rw [zero_gmul, gmul_zero]
  rcases eq_zero_or_alphaPow b with rfl | ⟨j, rfl⟩
  · rw [zero_gmul, gmul_zero]
  rw [gmul_alphaPow, gmul_alphaPow, Nat.add_comm]

theorem gmul_assoc (a b c : Byte) : gmul (gmul a b) c = gmul a (gmul b c) := by
  rcases eq_zero_or_alphaPow a with rfl | ⟨i, rfl⟩
  · simp only [zero_gmul]
  rcases eq_zero_or_alphaPow b with rfl | ⟨j, rfl⟩
  · simp only [gmul_zero, zero_gmul]
  rcases eq_zero_or_alphaPow c with rfl | ⟨k, rfl⟩
  · simp only [gmul_zero]
  simp only [gmul_alphaPow, Nat.add_assoc]

theorem eq_zero_of_gmul_eq_zero {a b : Byte} (h : gmul a b = 0) : a = 0 ∨ b = 0 := by
  rcases eq_zero_or_alphaPow a with ha | ⟨i, rfl⟩
  · exact .inl ha
  rcases eq_zero_or_alphaPow b with hb | ⟨j, rfl⟩
  · exact .inr hb
  exact absurd (gmul_alphaPow i j ▸ h) (alphaPow_ne_zero _)

/-- A non-zero factor cancels, so a quotient is unique. -/
theorem gmul_right_cancel {a b c : Byte} (hc : c ≠ 0) (h : gmul a c = gmul b c) : a = b := by
  have hzero : gmul (a ^^^ b) c = 0 := by rw [xor_gmul, h, BitVec.xor_self]; rfl
  exact BitVec.xor_eq_zero_iff.mp ((eq_zero_of_gmul_eq_zero hzero).resolve_right hc)

theorem gmul_left_cancel {a b c : Byte} (hc : c ≠ 0) (h : gmul c a = gmul c b) : a = b :=
  gmul_right_cancel hc (by rw [gmul_comm a, gmul_comm b, h])

/-- Settles O38: from the laws above. -/
theorem fieldMultiplicationLaws : Obligations.FieldMultiplicationLaws := by
  unfold Obligations.FieldMultiplicationLaws
  refine ⟨gmul_comm, gmul_assoc, gmul_xor, fun a => ⟨gmul_one a, gmul_zero a, xtime_eq_gmul a⟩,
    fun a b => eq_zero_of_gmul_eq_zero, fun a ha => ?generator, alphaPow_255⟩
  case generator =>
    obtain ⟨i, hi, hia⟩ := exists_alphaPow ha
    exact ⟨⟨i, hi⟩, hia, fun j hj => Fin.ext (alphaPow_injOn j.isLt hi (hj.trans hia.symm))⟩

end Sys2Proof.Proofs

/-!
PROOFS. The GF unit (spec/40_gf.md R94 to R102, R104, R105): the generator's tables hold the powers of `alpha` and their
logarithms, and what each command answers.
-/

namespace Sys2Proof.Proofs

open Sys2Proof Sys2Proof.Machine

/-! ## The tables (R94) -/

theorem genExp_getElem (i : Nat) (h : i < 256) : genExp[i] = alphaPow i := by
  simp only [genExp, powersFrom_one]
  simp

/-- The round in which R94's loop meets a power of `alpha` is its exponent. -/
theorem idxOf_alphaPow {m : Nat} (h : m < 255) : (powersFrom 255 1).idxOf (alphaPow m) = m := by
  have hnodup : (powersFrom 255 1).Nodup := by
    rw [powersFrom_one]
    exact List.nodup_range.map_on fun i hi j hj =>
      alphaPow_injOn (List.mem_range.mp hi) (List.mem_range.mp hj)
  have hget := hnodup.idxOf_getElem m (by rwa [powersFrom_length])
  simp only [powersFrom_one, List.getElem_map, List.getElem_range] at hget ⊢
  exact hget

theorem genLog_getElem (j : Nat) (h : j < 255) :
    genLog[j] = BitVec.ofNat 8 ((powersFrom 255 1).idxOf (BitVec.ofNat 8 (j + 1))) := by
  simp [genLog]

/-- The entry of `LOG` for `alpha^m` is `m`. -/
theorem genLog_of_alphaPow {j m : Nat} (hj : j < 255) (hm : m < 255) (h : alphaPow m = BitVec.ofNat 8 (j + 1)) :
    genLog[j] = BitVec.ofNat 8 m := by
  rw [genLog_getElem, ← h, idxOf_alphaPow hm]

/-- `LOG[a]` is at index `a - 1`. -/
theorem log_index_iff {a : Byte} (ha : a ≠ 0) {j : Nat} (hj : j < 255) :
    a.toNat - 1 = j ↔ a = BitVec.ofNat 8 (j + 1) := by
  have hpos := byte_toNat_pos ha
  rw [← BitVec.toNat_inj, BitVec.toNat_ofNat, Nat.mod_eq_of_lt (by omega)]
  omega

/-- The byte of a `LOG` index is not zero, so it is a power. -/
theorem exists_alphaPow_of_index {j : Nat} (hj : j < 255) : ∃ m < 255, alphaPow m = BitVec.ofNat 8 (j + 1) := by
  refine exists_alphaPow fun h => ?_
  have hnat := congrArg BitVec.toNat h
  rw [BitVec.toNat_ofNat, Nat.mod_eq_of_lt (by omega)] at hnat
  exact absurd hnat (Nat.succ_ne_zero j)

/-- One round more below the bound: the entry written in round `i` joins those already written. -/
theorem ite_lt_succ {α : Type} (f : Nat → α) (x : α) (i k : Nat) :
    (if k < i + 1 then (if i = k then f i else x) else f k) = if k < i then x else f k := by
  rcases Nat.lt_trichotomy k i with h | rfl | h
  · rw [if_pos (Nat.lt_succ_of_lt h), if_neg h.ne', if_pos h]
  · rw [if_pos (Nat.lt_succ_self k), if_pos rfl, if_neg (Nat.lt_irrefl k)]
  · rw [if_neg (Nat.not_lt_of_ge h), if_neg h.not_gt]

/-- R94's loop from round `i` on leaves `EXP` below `i` alone and writes the powers from `i` on. -/
theorem generatorLoop_exp {rounds i : Nat} (hi : i + rounds = 255) (ex : Vector Byte 256) (lg : Vector Byte 255)
    (k : Nat) (hk : k < 256) :
    (generatorLoop rounds i (alphaPow i) ex lg).1[k] = if k < i then ex[k] else alphaPow k := by
  induction rounds generalizing i ex lg with
  | zero =>
    obtain rfl : i = 255 := hi
    rw [generatorLoop, Vector.getElem_setIfInBounds]
    exact (if_pos hk).symm.trans (ite_lt_succ alphaPow ex[k] 255 k)
  | succ rounds ih =>
    rw [generatorLoop, ← alphaPow_succ, ih (by omega), Vector.getElem_setIfInBounds]
    exact ite_lt_succ alphaPow ex[k] i k

/-- R94's loop from round `i` on leaves the `LOG` of the powers below `i` alone and writes those from `i` on. -/
theorem generatorLoop_log {rounds i : Nat} (hi : i + rounds = 255) (ex : Vector Byte 256) (lg : Vector Byte 255)
    {j m : Nat} (hj : j < 255) (hm : m < 255) (h : alphaPow m = BitVec.ofNat 8 (j + 1)) :
    (generatorLoop rounds i (alphaPow i) ex lg).2[j] = if m < i then lg[j] else BitVec.ofNat 8 m := by
  induction rounds generalizing i ex lg with
  | zero =>
    obtain rfl : i = 255 := hi
    rw [generatorLoop, if_pos hm]
  | succ rounds ih =>
    have hindex : (alphaPow i).toNat - 1 = j ↔ i = m := by
      rw [log_index_iff (alphaPow_ne_zero i) hj, ← h]
      exact ⟨alphaPow_injOn (by omega) hm, congrArg alphaPow⟩
    rw [generatorLoop, ← alphaPow_succ, ih (by omega), Vector.getElem_setIfInBounds]
    simp only [hindex]
    exact ite_lt_succ (BitVec.ofNat 8) lg[j] i m

/-- R94's loop leaves the tables of the model, whatever they held. -/
theorem generatorLoop_eq (ex : Vector Byte 256) (lg : Vector Byte 255) :
    generatorLoop 255 0 1 ex lg = (genExp, genLog) := by
  refine Prod.ext (Vector.ext fun k hk => ?exp) (Vector.ext fun j hj => ?log)
  case exp => exact (generatorLoop_exp rfl ex lg k hk).trans (genExp_getElem k hk).symm
  case log =>
    obtain ⟨m, hm, h⟩ := exists_alphaPow_of_index hj
    exact (generatorLoop_log rfl ex lg hj hm h).trans (genLog_of_alphaPow hj hm h).symm

/-- Every `LOG` entry is the exponent, at most 254, of the byte it belongs to. -/
theorem genLog_spec (j : Nat) (h : j < 255) :
    genLog[j].toNat ≤ 254 ∧ alphaPow genLog[j].toNat = BitVec.ofNat 8 (j + 1) := by
  obtain ⟨m, hm, hj⟩ := exists_alphaPow_of_index h
  rw [genLog_of_alphaPow h hm hj, BitVec.toNat_ofNat, Nat.mod_eq_of_lt (by omega)]
  exact ⟨Nat.le_of_lt_succ hm, hj⟩

/-- Settles O30: what the loop writes, and what the two tables hold. -/
theorem generatorLoopLeavesTheTables : Obligations.GeneratorLoopLeavesTheTables := by
  unfold Obligations.GeneratorLoopLeavesTheTables
  refine ⟨generatorLoop_eq, genExp_getElem, fun j h => ?log, rfl⟩
  case log =>
    obtain ⟨hle, hpow⟩ := genLog_spec j h
    exact ⟨hle, (genExp_getElem _ _).trans hpow⟩

/-! ## Table reads while the tables are ready (R97 to R102) -/

section
variable {s : State} (hok : s.TablesOk) (hrdy : s.tblRdy = true)
include hok hrdy

/-- `EXP` is read modulo 255, so any exponent of the same power serves. -/
theorem expAt_eq {i : Int} {n : Nat} (h : i % 255 = n % 255) : s.expAt i = alphaPow n := by
  obtain ⟨hexp, -⟩ := hok hrdy
  have hn : (i % 255).toNat = n % 255 := by omega
  simp only [State.expAt, hexp, genExp_getElem, hn, alphaPow_mod]

/-- `LOG[a]` is at most 254 and its power of `alpha` is `a`. -/
theorem logAt_spec {a : Byte} (ha : a ≠ 0) :
    s.logAt a ≤ 254 ∧ alphaPow (s.logAt a) = a := by
  obtain ⟨-, hlog⟩ := hok hrdy
  have hlt : a.toNat - 1 < 255 := by omega
  have hspec := genLog_spec (a.toNat - 1) hlt
  rw [← (log_index_iff ha hlt).mp rfl] at hspec
  simpa only [State.logAt, hlog] using hspec

theorem tableMul_eq (a b : Byte) : s.tableMul a b = gmul a b := by
  unfold State.tableMul
  split
  next h =>
    rcases h with rfl | rfl
    · exact (zero_gmul b).symm
    · exact (gmul_zero a).symm
  next h =>
    obtain ⟨ha, hb⟩ := not_or.mp h
    obtain ⟨-, hla⟩ := logAt_spec hok hrdy ha
    obtain ⟨-, hlb⟩ := logAt_spec hok hrdy hb
    calc s.expAt (s.logAt a + s.logAt b) = alphaPow (s.logAt a + s.logAt b) := expAt_eq hok hrdy (by push_cast; rfl)
      _ = gmul a b := by rw [← gmul_alphaPow, hla, hlb]

theorem tableDiv_gmul (a : Byte) {b : Byte} (hb : b ≠ 0) : gmul (s.tableDiv a b) b = a := by
  unfold State.tableDiv
  split
  next ha => rw [zero_gmul, ha]
  next ha =>
    obtain ⟨-, hla⟩ := logAt_spec hok hrdy ha
    obtain ⟨hle, hlb⟩ := logAt_spec hok hrdy hb
    have hexp : s.expAt (s.logAt a - s.logAt b) = alphaPow (s.logAt a + (255 - s.logAt b)) :=
      expAt_eq hok hrdy (by omega)
    calc gmul (s.expAt (s.logAt a - s.logAt b)) b
        = gmul (alphaPow (s.logAt a + (255 - s.logAt b))) (alphaPow (s.logAt b)) := by rw [hexp, hlb]
      _ = alphaPow (s.logAt a) := (gmul_alphaPow _ _).trans (alphaPow_congr (by omega))
      _ = a := hla

theorem gmul_expAt_inverse {a : Byte} (ha : a ≠ 0) :
    gmul a (s.expAt (255 - (s.logAt a : Int))) = 1 := by
  obtain ⟨hle, hla⟩ := logAt_spec hok hrdy ha
  have hexp : s.expAt (255 - (s.logAt a : Int)) = alphaPow (255 - s.logAt a) := expAt_eq hok hrdy (by omega)
  calc gmul a (s.expAt (255 - (s.logAt a : Int))) = gmul (alphaPow (s.logAt a)) (alphaPow (255 - s.logAt a)) := by
        rw [hexp, hla]
    _ = alphaPow 255 := by rw [gmul_alphaPow, Nat.add_sub_cancel' (by omega)]
    _ = 1 := alphaPow_255

theorem tablePow_eq (a : Byte) (e : Nat) : s.tablePow a e = gpow a e := by
  unfold State.tablePow
  split
  next he => rw [he]; rfl
  next he =>
    split
    next ha => rw [ha, gpow_zero_base he]
    next ha =>
      obtain ⟨-, hla⟩ := logAt_spec hok hrdy ha
      calc s.expAt (s.logAt a * e) = alphaPow (s.logAt a * e) := expAt_eq hok hrdy (by push_cast; rfl)
        _ = gpow a e := by rw [← gpow_alphaPow, hla]

end

/-! ## The commands (R95 to R102, R105) -/

/-- The table check of a ready state passes, so the answer is the rest of the command (R105). -/
theorem ready_check {s : State} (hrdy : s.tblRdy = true) (error rest : Result) :
    (if !s.tblRdy then error else rest) = rest :=
  if_neg (by simp [hrdy])

/-- While the tables are not ready the table check ends the command (R105). -/
theorem unready_check {s : State} (hrdy : s.tblRdy = false) (error rest : Result) :
    (if !s.tblRdy then error else rest) = error :=
  if_pos (by simp [hrdy])

/-- Settles O29: the two branches of R95. -/
theorem gfinitGeneratesTheTablesOnce : Obligations.GfinitGeneratesTheTablesOnce := by
  unfold Obligations.GfinitGeneratesTheTablesOnce
  exact fun s => ⟨fun hr => if_neg (by simp [hr]), fun hr => if_pos hr⟩

/-- Settles O31: `GFADD` has no check, and the low byte of a register is its element operand. -/
theorem gfaddAddsTheLowBytes : Obligations.GfaddAddsTheLowBytes := by
  unfold Obligations.GfaddAddsTheLowBytes
  intro rd ra rb s
  have hlow (i : Reg) : (s.reg i).extractLsb' 0 8 = s.elem i :=
    (BitVec.setWidth_eq_extractLsb' (by decide)).symm
  rw [hlow, hlow]
  rfl

/-- Settles O32: the table product is the field product. -/
theorem gfmulMultipliesInTheField : Obligations.GfmulMultipliesInTheField := by
  unfold Obligations.GfmulMultipliesInTheField
  intro rd ra rb s hok hrdy
  rw [← tableMul_eq hok hrdy]
  exact ready_check hrdy _ _

/-- Settles O33: the table quotient is a quotient, and a factor that is not zero cancels. -/
theorem gfdivDividesInTheField : Obligations.GfdivDividesInTheField := by
  unfold Obligations.GfdivDividesInTheField
  intro rd ra rb s hok hrdy
  refine ⟨fun hb => ⟨s.tableDiv (s.elem ra) (s.elem rb), ?answer, fun x => ?unique⟩, fun hb => ?zero⟩
  case answer => exact (ready_check hrdy _ _).trans (if_neg hb)
  case zero => exact (ready_check hrdy _ _).trans (if_pos hb)
  case unique =>
    have hdiv := tableDiv_gmul hok hrdy (s.elem ra) hb
    exact ⟨fun hx => gmul_right_cancel hb (hx.trans hdiv.symm), fun hx => hx ▸ hdiv⟩

/-- Settles O34: the table inverse is an inverse, and a factor that is not zero cancels. -/
theorem gfinvInvertsInTheField : Obligations.GfinvInvertsInTheField := by
  unfold Obligations.GfinvInvertsInTheField
  intro rd ra s hok hrdy
  refine ⟨fun ha => ⟨s.expAt (255 - (s.logAt (s.elem ra) : Int)), ?answer, fun x => ?unique⟩, fun ha => ?zero⟩
  case answer => exact (ready_check hrdy _ _).trans (if_neg ha)
  case zero => exact (ready_check hrdy _ _).trans (if_pos ha)
  case unique =>
    have hinv := gmul_expAt_inverse hok hrdy ha
    exact ⟨fun hx => gmul_left_cancel ha (hx.trans hinv.symm), fun hx => hx ▸ hinv⟩

/-- Settles O35: the table power is the repeated product. -/
theorem gfpowRaisesInTheField : Obligations.GfpowRaisesInTheField := by
  unfold Obligations.GfpowRaisesInTheField
  intro rd ra rb s hok hrdy
  rw [← tablePow_eq hok hrdy]
  exact ready_check hrdy _ _

/-- Settles O36: the index modulo 255 gives the same power. -/
theorem gfexpRaisesAlpha : Obligations.GfexpRaisesAlpha := by
  unfold Obligations.GfexpRaisesAlpha
  intro rd ra s hok hrdy
  rw [← expAt_eq hok hrdy rfl]
  exact ready_check hrdy _ _

/-- Settles O37: `LOG` holds the exponent. -/
theorem gflogTakesTheLogarithm : Obligations.GflogTakesTheLogarithm := by
  unfold Obligations.GflogTakesTheLogarithm
  intro rd ra s hok hrdy
  refine ⟨fun ha => ?log, fun ha => (ready_check hrdy _ _).trans (if_pos ha)⟩
  case log =>
    obtain ⟨hle, hpow⟩ := logAt_spec hok hrdy ha
    exact ⟨_, hle, hpow, (ready_check hrdy _ _).trans (if_neg ha)⟩

/-- Of the kinds a command raises only `TablesNotReady` has the code `0x82` (R211). -/
theorem tablesNotReady_of_code : ∀ k ∈ raisable, k.code = 0x82 → k = .tablesNotReady := by
  decide

/-- A command that reads no table does not record `TablesNotReady`: no such kind is in its list. -/
theorem err_of_not_needsTables {i : Instr} {s t : State} (hi : needsTables i = false) (h : exec i s = .next t)
    (ht : t.err = 0x82) : s.err = 0x82 := by
  cases exec_outcome h with
  | idle | tables | register | bytes | cells | cellsRegister => exact ht
  | error hk =>
    rw [tablesNotReady_of_code _ (raises_subset i hk) ht, ← List.contains_iff_mem] at hk
    exact absurd (hk.symm.trans hi) (by decide)

/-- Settles O39: the table check is the first of each of the eight, and no other command has that kind in its list. -/
theorem tableCommandsNeedTheTables : Obligations.TableCommandsNeedTheTables := by
  unfold Obligations.TableCommandsNeedTheTables
  refine ⟨fun rd ra rb n k s hrdy => ?needed, fun rd ra rb ver lvl off inv s t => ?others⟩
  case needed =>
    simp only [List.forall_mem_cons]
    exact ⟨unready_check hrdy _ _, unready_check hrdy _ _, unready_check hrdy _ _, unready_check hrdy _ _,
      unready_check hrdy _ _, unready_check hrdy _ _, unready_check hrdy _ _, unready_check hrdy _ _,
      fun _ h => nomatch h⟩
  case others =>
    intro i hi
    refine err_of_not_needsTables ?_
    revert i
    simp only [List.forall_mem_cons]
    exact ⟨rfl, rfl, rfl, rfl, rfl, rfl, rfl, rfl, fun _ h => nomatch h⟩

end Sys2Proof.Proofs

/-!
PROOFS. The bytes in a field: GF(2^8) as a Mathlib field of characteristic 2, and the byte lists of the RS unit as
polynomials over it (spec/41_rs.md R120, R122, R123, R133).

Every lemma is about an arbitrary field `F` and an embedding `φ` of the bytes with their xor and `gmul`; that there is
one is `exists_byteEmbedding`.
-/

namespace Sys2Proof.Proofs

open Sys2Proof Sys2Proof.Machine
open Polynomial

/-! ## The field (R92, R99, R103) -/

/-- `φ` takes the bytes, with xor as sum and `gmul` as product, into a field. -/
structure ByteEmbedding {F : Type} [Field F] (φ : Byte → F) : Prop where
  injective : Function.Injective φ
  xor : ∀ a b, φ (a ^^^ b) = φ a + φ b
  gmul : ∀ a b, φ (gmul a b) = φ a * φ b

theorem ginv_alphaPow (i : Nat) : ginv (alphaPow i) = alphaPow (254 * i) := by
  simp only [ginv, gmul_alphaPow]
  congr 1
  omega

theorem gmul_ginv {a : Byte} (ha : a ≠ 0) : gmul a (ginv a) = 1 := by
  obtain ⟨i, -, rfl⟩ := exists_alphaPow ha
  calc gmul (alphaPow i) (ginv (alphaPow i)) = alphaPow (255 * i) := by
        rw [ginv_alphaPow, gmul_alphaPow]
        congr 1
        omega
    _ = 1 := alphaPow_mul_255 i

theorem ginv_zero : ginv 0 = 0 := zero_gmul _

/-- The bytes as a type of their own, so that `+` and `*` are those of the field and not those of words. -/
structure Gf where
  byte : Byte

/-- The sum of the field, written out once for the multiples of `gfField`. -/
def Gf.add (a b : Gf) : Gf := ⟨a.byte ^^^ b.byte⟩

/-- GF(2^8): the laws of `Obligations.FieldMultiplicationLaws`, and `ginv` for the inverse (R103). -/
abbrev gfField : Field Gf where
  add := Gf.add
  zero := ⟨0⟩
  neg := id
  mul a b := ⟨gmul a.byte b.byte⟩
  one := ⟨1⟩
  inv a := ⟨ginv a.byte⟩
  add_assoc a b c := congrArg Gf.mk (BitVec.xor_assoc _ _ _)
  zero_add a := congrArg Gf.mk BitVec.zero_xor
  add_zero a := congrArg Gf.mk BitVec.xor_zero
  add_comm a b := congrArg Gf.mk (BitVec.xor_comm _ _)
  neg_add_cancel a := congrArg Gf.mk BitVec.xor_self
  mul_assoc a b c := congrArg Gf.mk (gmul_assoc _ _ _)
  mul_comm a b := congrArg Gf.mk (gmul_comm _ _)
  one_mul a := congrArg Gf.mk ((gmul_comm _ _).trans (gmul_one _))
  mul_one a := congrArg Gf.mk (gmul_one _)
  zero_mul a := congrArg Gf.mk (zero_gmul _)
  mul_zero a := congrArg Gf.mk (gmul_zero _)
  left_distrib a b c := congrArg Gf.mk (gmul_xor _ _ _)
  right_distrib a b c := congrArg Gf.mk (xor_gmul _ _ _)
  exists_pair_ne := ⟨⟨0⟩, ⟨1⟩, fun h => absurd (congrArg Gf.byte h) (by decide)⟩
  mul_inv_cancel a ha := congrArg Gf.mk (gmul_ginv fun h => ha (congrArg Gf.mk h))
  inv_zero := congrArg Gf.mk ginv_zero
  nsmul := @nsmulRec Gf ⟨⟨0⟩⟩ ⟨Gf.add⟩
  zsmul := @zsmulRec Gf ⟨⟨0⟩⟩ ⟨Gf.add⟩ ⟨id⟩ (@nsmulRec Gf ⟨⟨0⟩⟩ ⟨Gf.add⟩)
  nnqsmul := _
  nnqsmul_def := fun _ _ => rfl
  qsmul := _
  qsmul_def := fun _ _ => rfl

theorem exists_byteEmbedding :
    ∃ (F : Type) (_ : Field F) (_ : CharP F 2) (φ : Byte → F), ByteEmbedding φ := by
  let _ := gfField
  have htwo : (2 : Gf) = 0 := by
    rw [← one_add_one_eq_two]
    exact congrArg Gf.mk (BitVec.xor_self (x := 1))
  exact ⟨Gf, gfField, CharTwo.of_one_ne_zero_of_two_eq_zero one_ne_zero htwo, Gf.mk,
    fun _ _ h => congrArg Gf.byte h, fun _ _ => rfl, fun _ _ => rfl⟩

section
variable {F : Type} [Field F] {φ : Byte → F} (hφ : ByteEmbedding φ)
include hφ

namespace ByteEmbedding

theorem zero : φ 0 = 0 := by
  simpa using hφ.xor 0 0

theorem eq_zero_iff {a : Byte} : φ a = 0 ↔ a = 0 := by
  rw [← hφ.zero, hφ.injective.eq_iff]

theorem one : φ 1 = 1 := by
  have hne : φ 1 ≠ 0 := mt hφ.eq_zero_iff.mp (by decide)
  have hsq : φ 1 * φ 1 = φ 1 * 1 := by rw [← hφ.gmul, gmul_one, mul_one]
  exact mul_left_cancel₀ hne hsq

theorem xor_eq_zero_iff {a b : Byte} : φ (a ^^^ b) = 0 ↔ a = b := by
  rw [hφ.eq_zero_iff]
  exact BitVec.xor_eq_zero_iff

theorem alphaPow (i : Nat) : φ (alphaPow i) = φ (alphaPow 1) ^ i := by
  induction i with
  | zero => rw [alphaPow_zero, hφ.one, pow_zero]
  | succ i ih => rw [← gmul_alphaPow, hφ.gmul, ih, pow_succ]

theorem ginv (a : Byte) : φ (ginv a) = (φ a)⁻¹ := by
  by_cases ha : a = 0
  · rw [ha, ginv_zero, hφ.zero, inv_zero]
  · refine eq_inv_of_mul_eq_one_right ?_
    rw [← hφ.gmul, gmul_ginv ha, hφ.one]

theorem gdiv (a b : Byte) : φ (gdiv a b) = φ a / φ b := by
  rw [Machine.gdiv, hφ.gmul, hφ.ginv, div_eq_mul_inv]

/-- `alpha^(-e)` as R133 step 3 writes it. -/
theorem alphaPow_neg {e : Nat} (he : e ≤ 255) :
    φ (Machine.alphaPow ((255 - e) % 255)) = (φ (Machine.alphaPow e))⁻¹ := by
  refine eq_inv_of_mul_eq_one_right ?_
  rw [alphaPow_mod, ← hφ.gmul, gmul_alphaPow, Nat.add_sub_cancel' he, alphaPow_255, hφ.one]

end ByteEmbedding

end

/-! ## Byte lists as polynomials, indexed by degree (R133) -/

section
variable {F : Type} [Field F] {φ : Byte → F}

/-- The polynomial whose coefficient of `x^i` is the element `i` of the list. -/
noncomputable def toPoly (φ : Byte → F) : List Byte → F[X]
  | [] => 0
  | a :: p => C (φ a) + X * toPoly φ p

theorem toPoly_append (p q : List Byte) : toPoly φ (p ++ q) = toPoly φ p + X ^ p.length * toPoly φ q := by
  induction p with
  | nil => simp [toPoly]
  | cons a p ih => rw [List.cons_append, toPoly, ih, toPoly, List.length_cons]; ring

theorem toPoly_singleton (a : Byte) : toPoly φ [a] = C (φ a) := by
  simp [toPoly]

section
variable (hφ : ByteEmbedding φ)
include hφ

theorem toPoly_coeff (p : List Byte) (i : Nat) : (toPoly φ p).coeff i = φ (p.getD i 0) := by
  induction p generalizing i with
  | nil => exact hφ.zero.symm
  | cons a p ih =>
    cases i with
    | zero => simp [toPoly]
    | succ i => simpa [toPoly] using ih i

theorem toPoly_degree_lt (p : List Byte) : (toPoly φ p).degree < p.length := by
  rw [degree_lt_iff_coeff_zero]
  intro i hi
  rw [toPoly_coeff hφ, List.getD_eq_default _ _ hi, hφ.zero]

theorem toPoly_replicate_zero (n : Nat) : toPoly φ (List.replicate n 0) = 0 := by
  induction n with
  | zero => rfl
  | succ n ih => rw [List.replicate_succ, toPoly, ih, hφ.zero, C_0, mul_zero, add_zero]

theorem toPoly_polyAdd (p q : List Byte) : toPoly φ (polyAdd p q) = toPoly φ p + toPoly φ q := by
  induction p, q using polyAdd.induct with
  | case1 q => simp [polyAdd, toPoly]
  | case2 p hp => cases p <;> simp [polyAdd, toPoly]
  | case3 a p b q ih => rw [polyAdd, toPoly, ih, hφ.xor, C_add, toPoly, toPoly]; ring

theorem toPoly_polyScale (c : Byte) (p : List Byte) : toPoly φ (polyScale c p) = C (φ c) * toPoly φ p := by
  induction p with
  | nil => simp [polyScale, toPoly]
  | cons a p ih =>
    rw [polyScale] at ih ⊢
    rw [List.map_cons, toPoly, ih, hφ.gmul, C_mul, toPoly]
    ring

theorem toPoly_polyMul (p q : List Byte) : toPoly φ (polyMul p q) = toPoly φ p * toPoly φ q := by
  induction p with
  | nil => simp [polyMul, toPoly]
  | cons a p ih => rw [polyMul, toPoly_polyAdd hφ, toPoly_polyScale hφ, toPoly, ih, hφ.zero, toPoly, C_0]; ring

theorem eval_toPoly (p : List Byte) (x : Byte) : (toPoly φ p).eval (φ x) = φ (polyEval p x) := by
  induction p with
  | nil => exact eval_zero.trans hφ.zero.symm
  | cons a p ih =>
    rw [polyEval] at ih ⊢
    rw [List.foldr_cons, hφ.xor, hφ.gmul, ← ih, toPoly]
    simp only [eval_add, eval_C, eval_mul, eval_X]
    ring

/-- The product of R133 step 4 kept below `x^k`. -/
theorem coeff_toPoly_take (p : List Byte) (k i : Nat) :
    (toPoly φ (p.take k)).coeff i = if i < k then (toPoly φ p).coeff i else 0 := by
  rw [toPoly_coeff hφ, toPoly_coeff hφ]
  simp only [List.getD_eq_getElem?_getD, List.getElem?_take]
  split
  · rfl
  · exact hφ.zero

theorem toPoly_polyDeriv [CharP F 2] (p : List Byte) : toPoly φ (polyDeriv p) = derivative (toPoly φ p) := by
  ext i
  have hget : (polyDeriv p).getD i 0 = if Even (i + 1) then 0 else p.getD (i + 1) 0 := by
    simp only [polyDeriv, List.getD_eq_getElem?_getD, List.getElem?_map, List.getElem?_drop, List.getElem?_zipIdx]
    rw [Nat.add_comm 1 i]
    cases p[i + 1]? with
    | none => simp
    | some a => rcases Nat.mod_two_eq_zero_or_one (i + 1) with hpar | hpar <;> simp [Nat.even_iff, hpar]
  rw [toPoly_coeff hφ, hget, coeff_derivative, toPoly_coeff hφ, ← Nat.cast_succ, CharTwo.natCast_eq_ite]
  split
  · rw [hφ.zero, mul_zero]
  · rw [mul_one]

/-- The degree of R133 step 2, of a list written highest degree first. -/
theorem natDegree_toPoly_reverse (q : List Byte) :
    (toPoly φ q.reverse).natDegree = (q.dropWhile (· == 0)).length - 1 := by
  induction q with
  | nil => rfl
  | cons a q ih =>
    rw [List.reverse_cons, toPoly_append, toPoly_singleton, List.length_reverse]
    by_cases ha : a = 0
    · rw [ha, hφ.zero, C_0, mul_zero, add_zero, ih]
      rfl
    · have hlt : (toPoly φ q.reverse).degree < (X ^ q.length * C (φ a)).degree := by
        rw [X_pow_mul_C, degree_C_mul_X_pow _ (mt hφ.eq_zero_iff.mp ha)]
        simpa using toPoly_degree_lt hφ q.reverse
      rw [natDegree_eq_of_degree_eq (degree_add_eq_right_of_degree_lt hlt), X_pow_mul_C,
        natDegree_C_mul_X_pow _ _ (mt hφ.eq_zero_iff.mp ha), List.dropWhile_cons_of_neg (by simpa using ha)]
      rfl

theorem natDegree_toPoly (p : List Byte) : (toPoly φ p).natDegree = polyDegree p := by
  have hrev := natDegree_toPoly_reverse hφ p.reverse
  rwa [List.reverse_reverse] at hrev

end
end

end Sys2Proof.Proofs

/-!
PROOFS. Error location and evaluation over a field (the standard facts behind spec/41_rs.md R124 and R133): sums of
powers of different locators, the shift registers Berlekamp-Massey keeps, and Forney's formula.
-/

namespace Sys2Proof.Proofs

open Polynomial Finset

section
variable {F : Type} [Field F]

/-! ## Sums of powers -/

/-- The Vandermonde argument: weights of different nodes are 0 when as many power sums vanish as there are nodes. -/
theorem eq_zero_of_power_sums {J : Finset Nat} {x u : Nat → F} (hx : Set.InjOn x J)
    (h : ∀ i < #J, ∑ j ∈ J, u j * x j ^ i = 0) {l : Nat} (hl : l ∈ J) : u l = 0 := by
  have hpoly (p : F[X]) (hp : p.natDegree < #J) : ∑ j ∈ J, u j * p.eval (x j) = 0 := by
    simp only [eval_eq_sum_range' hp, mul_sum]
    rw [sum_comm]
    refine sum_eq_zero fun i hi => ?_
    calc ∑ j ∈ J, u j * (p.coeff i * x j ^ i) = p.coeff i * ∑ j ∈ J, u j * x j ^ i := by
          rw [mul_sum]
          exact sum_congr rfl fun j _ => mul_left_comm _ _ _
      _ = 0 := by rw [h i (mem_range.mp hi), mul_zero]
  have hbasis := hpoly (Lagrange.basis J x l) <| by
    rw [Lagrange.natDegree_basis hx hl]
    exact Nat.sub_one_lt (card_ne_zero_of_mem hl)
  rw [sum_eq_single_of_mem l hl fun j hj hne => by rw [Lagrange.eval_basis_of_ne hne.symm hj, mul_zero],
    Lagrange.eval_basis_self hx hl, mul_one] at hbasis
  exact hbasis

/-- `S` is the syndrome polynomial below `x^k` of errors with values `v` at the locators `x` of the positions `J`. -/
structure Syndrome (S : F[X]) (k : Nat) (J : Finset Nat) (x v : Nat → F) : Prop where
  eq_sum : S = ∑ j ∈ J, C (v j) * ∑ i ∈ range k, (C (x j) * X) ^ i
  injOn : Set.InjOn x J
  locator_ne : ∀ j ∈ J, x j ≠ 0
  value_ne : ∀ j ∈ J, v j ≠ 0

namespace Syndrome

variable {S : F[X]} {k : Nat} {J : Finset Nat} {x v : Nat → F} (hS : Syndrome S k J x v)
include hS

theorem coeff {i : Nat} (hi : i < k) : S.coeff i = ∑ j ∈ J, v j * x j ^ i := by
  rw [hS.eq_sum]
  simp only [finsetSum_coeff, coeff_C_mul, mul_pow, ← C_pow, coeff_X_pow]
  refine sum_congr rfl fun j _ => ?_
  simp [hi]

/-- A coefficient of a product with `S` is a power sum, weighted with the values of the other factor. -/
theorem coeff_mul {p : F[X]} {i : Nat} (hp : p.natDegree ≤ i) (hi : i < k) :
    (p * S).coeff i = ∑ j ∈ J, v j * p.eval (x j)⁻¹ * x j ^ i := by
  have hterm (j : Nat) (hj : j ∈ J) :
      v j * p.eval (x j)⁻¹ * x j ^ i = ∑ m ∈ range (i + 1), p.coeff m * (v j * x j ^ (i - m)) := by
    rw [eval_eq_sum_range' (Nat.lt_succ_of_le hp), mul_sum, sum_mul]
    refine sum_congr rfl fun m hm => ?_
    have hle : m ≤ i := Nat.le_of_lt_succ (mem_range.mp hm)
    rw [pow_sub₀ _ (hS.locator_ne j hj) hle, inv_pow]
    ring
  calc (p * S).coeff i = ∑ m ∈ range (i + 1), p.coeff m * S.coeff (i - m) := by
        rw [Polynomial.coeff_mul, Nat.sum_antidiagonal_eq_sum_range_succ fun a b => p.coeff a * S.coeff b]
    _ = ∑ m ∈ range (i + 1), ∑ j ∈ J, p.coeff m * (v j * x j ^ (i - m)) := by
        refine sum_congr rfl fun m _ => ?_
        rw [hS.coeff ((Nat.sub_le i m).trans_lt hi), mul_sum]
    _ = ∑ j ∈ J, v j * p.eval (x j)⁻¹ * x j ^ i := by
        rw [sum_comm]
        exact sum_congr rfl fun j hj => (hterm j hj).symm

end Syndrome

/-! ## The shift registers of Berlekamp-Massey (R133 step 2) -/

/-- `lam` is a shift register of length `len` that predicts the coefficients of `S` below `rr`. -/
structure Predicts (S lam : F[X]) (len rr : Nat) : Prop where
  coeff_zero : lam.coeff 0 = 1
  natDegree_le : lam.natDegree ≤ len
  len_le : len ≤ rr
  coeff_mul : ∀ i, len ≤ i → i < rr → (lam * S).coeff i = 0

/-- `q` can repair the prediction of coefficient `rr` for a register of length `len`: it changes no prediction below
`rr`, and that of `rr` by `disc`; nothing is asked of it while `len = 0`. -/
structure Repairs (S q : F[X]) (len rr : Nat) (disc : F) : Prop where
  coeff_zero : q.coeff 0 = 0
  natDegree_le : q.natDegree + len ≤ rr + 1
  coeff_mul : ∀ i, rr + 1 ≤ i + len → i < rr → (q * S).coeff i = 0
  coeff_rr : len ≠ 0 → (q * S).coeff rr = disc
  disc_ne : disc ≠ 0

variable {S lam q : F[X]} {len rr : Nat} {disc d : F}

theorem predicts_one : Predicts S 1 0 0 :=
  ⟨coeff_one_zero, natDegree_one.le, Nat.le_refl 0, fun _ _ h => absurd h (Nat.not_lt_zero _)⟩

theorem repairs_X : Repairs S X 0 0 1 :=
  ⟨coeff_X_zero, natDegree_X_le, fun _ _ h => absurd h (Nat.not_lt_zero _), fun h => absurd rfl h, one_ne_zero⟩

theorem natDegree_X_mul_le_succ (p : F[X]) : (X * p).natDegree ≤ 1 + p.natDegree :=
  natDegree_mul_le.trans (Nat.add_le_add_right natDegree_X_le _)

/-- A right prediction needs no repair. -/
theorem Predicts.succ (h : Predicts S lam len rr) (hd : (lam * S).coeff rr = 0) : Predicts S lam len (rr + 1) where
  coeff_zero := h.coeff_zero
  natDegree_le := h.natDegree_le
  len_le := h.len_le.trans (Nat.le_succ rr)
  coeff_mul i hlo hhi := by
    rcases Nat.lt_succ_iff_lt_or_eq.mp hhi with hlt | rfl
    · exact h.coeff_mul i hlo hlt
    · exact hd

/-- The repair of one coefficient, shifted, is a repair of the next. -/
theorem Repairs.succ (h : Repairs S q len rr disc) : Repairs S (X * q) len (rr + 1) disc where
  coeff_zero := coeff_X_mul_zero q
  natDegree_le := by
    have hX := natDegree_X_mul_le_succ q
    have := h.natDegree_le
    omega
  coeff_mul i hlo hhi := by
    rw [mul_assoc]
    cases i with
    | zero => exact coeff_X_mul_zero _
    | succ i =>
      rw [coeff_X_mul]
      exact h.coeff_mul i (by omega) (by omega)
  coeff_rr hlen := by rw [mul_assoc, coeff_X_mul, h.coeff_rr hlen]
  disc_ne := h.disc_ne

/-- A register that predicts wrongly is, shifted, a repair of the next coefficient. -/
theorem Predicts.repairs (h : Predicts S lam len rr) (hd : (lam * S).coeff rr = d) (hne : d ≠ 0) :
    Repairs S (X * lam) (rr + 1 - len) (rr + 1) d where
  coeff_zero := coeff_X_mul_zero lam
  natDegree_le := by
    have hX := natDegree_X_mul_le_succ lam
    have := h.natDegree_le
    have := h.len_le
    omega
  coeff_mul i hlo hhi := by
    have := h.len_le
    rw [mul_assoc]
    cases i with
    | zero => exact coeff_X_mul_zero _
    | succ i =>
      rw [coeff_X_mul]
      exact h.coeff_mul i (by omega) (by omega)
  coeff_rr _ := by rw [mul_assoc, coeff_X_mul, hd]
  disc_ne := hne

/-- The repaired register predicts one coefficient more; it has to be as long as the repair. -/
theorem Predicts.repair (h : Predicts S lam len rr) (hq : Repairs S q len rr disc) (hd : (lam * S).coeff rr = d)
    {len' : Nat} (hlen : len ≤ len') (hlen' : rr + 1 ≤ len' + len) (hle : len' ≤ rr + 1) :
    Predicts S (lam - C (d / disc) * q) len' (rr + 1) where
  coeff_zero := by rw [coeff_sub, coeff_C_mul, hq.coeff_zero, mul_zero, sub_zero, h.coeff_zero]
  natDegree_le := by
    have hlam := h.natDegree_le
    have hdeg := hq.natDegree_le
    have hrepair := natDegree_C_mul_le (d / disc) q
    exact (natDegree_sub_le _ _).trans (max_le (hlam.trans hlen) (by omega))
  len_le := hle
  coeff_mul i hlo hhi := by
    rw [sub_mul, coeff_sub, mul_assoc, coeff_C_mul]
    rcases Nat.lt_succ_iff_lt_or_eq.mp hhi with hlt | rfl
    · rw [h.coeff_mul i (by omega) hlt, hq.coeff_mul i (by omega) hlt, mul_zero, sub_zero]
    · rw [hd, hq.coeff_rr (by omega), div_mul_cancel₀ _ hq.disc_ne, sub_self]

/-! ## The locator polynomial -/

/-- `(1 - x_1 X) (1 - x_2 X) ...` over the positions `J`. -/
noncomputable def locator (x : Nat → F) (J : Finset Nat) : F[X] := ∏ j ∈ J, (1 - C (x j) * X)

theorem locator_natDegree_le (x : Nat → F) (J : Finset Nat) : (locator x J).natDegree ≤ #J := by
  have hfactor (j : Nat) : (1 - C (x j) * X).natDegree ≤ 1 := by
    refine (natDegree_sub_le _ _).trans (max_le (natDegree_one.trans_le (Nat.zero_le 1)) ?_)
    exact (natDegree_C_mul_le _ _).trans natDegree_X_le
  exact (natDegree_prod_le _ _).trans ((sum_le_card_nsmul _ _ 1 fun j _ => hfactor j).trans_eq (Nat.mul_one _))

theorem locator_eval_zero (x : Nat → F) (J : Finset Nat) : (locator x J).eval 0 = 1 := by
  simp [locator, eval_prod]

theorem locator_eq_mul_erase (x : Nat → F) {J : Finset Nat} {l : Nat} (hl : l ∈ J) :
    locator x J = (1 - C (x l) * X) * locator x (J.erase l) :=
  (mul_prod_erase J _ hl).symm

theorem locator_eval_eq_zero_iff {x : Nat → F} {J : Finset Nat} (hx : ∀ j ∈ J, x j ≠ 0) {y : F} :
    (locator x J).eval y = 0 ↔ ∃ j ∈ J, y = (x j)⁻¹ := by
  simp only [locator, eval_prod, prod_eq_zero_iff, eval_sub, eval_one, eval_mul, eval_C, eval_X, sub_eq_zero]
  refine exists_congr fun j => and_congr_right fun hj => ?_
  rw [← mul_eq_one_iff_eq_inv₀ (hx j hj), mul_comm, eq_comm]

/-- The error evaluator polynomial. -/
noncomputable def evaluator (x v : Nat → F) (J : Finset Nat) : F[X] := ∑ j ∈ J, C (v j) * locator x (J.erase j)

theorem evaluator_coeff_eq_zero (x v : Nat → F) (J : Finset Nat) {i : Nat} (hi : #J ≤ i) :
    (evaluator x v J).coeff i = 0 := by
  rw [evaluator, finsetSum_coeff]
  refine sum_eq_zero fun j hj => ?_
  rw [coeff_C_mul, coeff_eq_zero_of_natDegree_lt, mul_zero]
  exact (locator_natDegree_le x _).trans_lt ((card_erase_lt_of_mem hj).trans_le hi)

/-! ## Registers that predict enough have the locators for roots -/

section
variable {k : Nat} {J : Finset Nat} {x v : Nat → F} (hS : Syndrome S k J x v)
include hS

/-- Predicting as many coefficients beyond its length as there are errors forces a register to vanish at the inverse of
every locator. -/
theorem Predicts.eval_inv_locator (h : Predicts S lam len rr) (hrr : rr ≤ k) (hlen : #J + len ≤ rr) {l : Nat}
    (hl : l ∈ J) : lam.eval (x l)⁻¹ = 0 := by
  have hpowers (i : Nat) (hi : i < #J) : ∑ j ∈ J, v j * lam.eval (x j)⁻¹ * x j ^ len * x j ^ i = 0 := by
    have hcoeff := h.coeff_mul (len + i) (by omega) (by omega)
    rw [hS.coeff_mul (h.natDegree_le.trans (Nat.le_add_right _ _)) (by omega)] at hcoeff
    simpa only [pow_add, mul_assoc] using hcoeff
  have hweight : v l * lam.eval (x l)⁻¹ * x l ^ len = 0 := eq_zero_of_power_sums hS.injOn hpowers hl
  have hpow : x l ^ len ≠ 0 := pow_ne_zero _ (hS.locator_ne l hl)
  exact (mul_eq_zero.mp ((mul_eq_zero.mp hweight).resolve_right hpow)).resolve_left (hS.value_ne l hl)

/-- Massey's bound: no wrong prediction while the register and the error count are short. -/
theorem Predicts.lt_of_wrong (h : Predicts S lam len rr) (hrr : rr < k) (hd : (lam * S).coeff rr ≠ 0) :
    rr < #J + len := by
  by_contra hle
  refine hd ?_
  rw [hS.coeff_mul (h.natDegree_le.trans h.len_le) hrr]
  refine sum_eq_zero fun j hj => ?_
  rw [h.eval_inv_locator hS hrr.le (not_lt.mp hle) hj, mul_zero, zero_mul]

namespace Syndrome

theorem locator_eval_inv {l : Nat} (hl : l ∈ J) : (locator x J).eval (x l)⁻¹ = 0 :=
  (locator_eval_eq_zero_iff hS.locator_ne).mpr ⟨l, hl, rfl⟩

theorem locator_erase_eval_inv_ne {l : Nat} (hl : l ∈ J) : (locator x (J.erase l)).eval (x l)⁻¹ ≠ 0 := by
  rw [Ne, locator_eval_eq_zero_iff fun j hj => hS.locator_ne j (mem_of_mem_erase hj)]
  rintro ⟨j, hj, hinv⟩
  exact ne_of_mem_erase hj (hS.injOn (mem_of_mem_erase hj) hl (inv_injective hinv.symm))

theorem injOn_inv : Set.InjOn (fun j => (x j)⁻¹) J :=
  fun _ hi _ hj h => hS.injOn hi hj (inv_injective h)

/-- The degree of a polynomial that vanishes at the inverse of every locator is at least the error count. -/
theorem card_le_natDegree {p : F[X]} (hp : p ≠ 0) (h : ∀ j ∈ J, p.eval (x j)⁻¹ = 0) : #J ≤ p.natDegree := by
  by_contra hlt
  refine hp (eq_zero_of_degree_lt_of_eval_index_eq_zero J hS.injOn_inv ?_ h)
  exact degree_le_natDegree.trans_lt (Nat.cast_lt.mpr (not_le.mp hlt))

/-- A polynomial of the degree of the locator polynomial that agrees with it at 0 and at the inverse locators is it. -/
theorem eq_locator {p : F[X]} (hdeg : p.natDegree ≤ #J) (hzero : p.eval 0 = 1)
    (h : ∀ j ∈ J, p.eval (x j)⁻¹ = 0) : p = locator x J := by
  classical
  have hnodes : #(insert 0 (J.image fun j => (x j)⁻¹)) = #J + 1 := by
    rw [card_insert_of_notMem, card_image_of_injOn hS.injOn_inv]
    simpa using hS.locator_ne
  have hlt {r : F[X]} (hr : r.natDegree ≤ #J) : r.degree < #(insert 0 (J.image fun j => (x j)⁻¹)) := by
    rw [hnodes]
    exact degree_le_natDegree.trans_lt (Nat.cast_lt.mpr (Nat.lt_succ_of_le hr))
  refine eq_of_degrees_lt_of_eval_finset_eq _ (hlt hdeg) (hlt (locator_natDegree_le x J)) ?_
  rw [forall_mem_insert]
  refine ⟨hzero.trans (locator_eval_zero x J).symm, fun y hy => ?_⟩
  obtain ⟨j, hj, rfl⟩ := mem_image.mp hy
  rw [h j hj, hS.locator_eval_inv hj]

end Syndrome

/-- A register that is short and predicts all of `S` is the locator polynomial, and its length is the error count. -/
theorem Predicts.eq_locator (h : Predicts S lam len k) (hlen : len ≤ #J) (hJ : #J + #J ≤ k) :
    len = #J ∧ lam.natDegree = #J ∧ lam = locator x J := by
  have hroot (j : Nat) (hj : j ∈ J) : lam.eval (x j)⁻¹ = 0 := h.eval_inv_locator hS le_rfl (by omega) hj
  have hzero : lam.eval 0 = 1 := (coeff_zero_eq_eval_zero lam).symm.trans h.coeff_zero
  have hne : lam ≠ 0 := by
    rintro rfl
    exact zero_ne_one (eval_zero.symm.trans hzero)
  have hdeg := h.natDegree_le
  have hcard := hS.card_le_natDegree hne hroot
  exact ⟨by omega, by omega, hS.eq_locator (hdeg.trans hlen) hzero hroot⟩

/-! ## Forney's formula (R133 step 4) -/

namespace Syndrome

/-- The key equation: below `x^k` the locator polynomial times the syndromes is the error evaluator. -/
theorem coeff_locator_mul {i : Nat} (hi : i < k) : (locator x J * S).coeff i = (evaluator x v J).coeff i := by
  have hterm (j : Nat) (hj : j ∈ J) :
      locator x J * (C (v j) * ∑ i ∈ range k, (C (x j) * X) ^ i) =
        C (v j) * locator x (J.erase j) - X ^ k * (C (v j) * locator x (J.erase j) * C (x j) ^ k) :=
    calc locator x J * (C (v j) * ∑ i ∈ range k, (C (x j) * X) ^ i)
        = C (v j) * locator x (J.erase j) * ((1 - C (x j) * X) * ∑ i ∈ range k, (C (x j) * X) ^ i) := by
          rw [locator_eq_mul_erase x hj]
          ring
      _ = _ := by
          rw [mul_neg_geom_sum, mul_pow]
          ring
  rw [hS.eq_sum, mul_sum, sum_congr rfl hterm, sum_sub_distrib, ← mul_sum, coeff_sub, coeff_X_pow_mul',
    if_neg (Nat.not_le_of_lt hi), sub_zero, evaluator]

theorem evaluator_eval_inv {l : Nat} (hl : l ∈ J) :
    (evaluator x v J).eval (x l)⁻¹ = v l * (locator x (J.erase l)).eval (x l)⁻¹ := by
  rw [evaluator, eval_finsetSum, sum_eq_single_of_mem l hl fun j hj hne => ?_, eval_mul, eval_C]
  rw [eval_mul, mul_eq_zero]
  refine .inr ((locator_eval_eq_zero_iff fun j hj => hS.locator_ne j (mem_of_mem_erase hj)).mpr ⟨l, ?_, rfl⟩)
  exact mem_erase.mpr ⟨hne.symm, hl⟩

theorem derivative_locator_eval_inv {l : Nat} (hl : l ∈ J) :
    (derivative (locator x J)).eval (x l)⁻¹ = -x l * (locator x (J.erase l)).eval (x l)⁻¹ := by
  have hx : x l * (x l)⁻¹ = 1 := mul_inv_cancel₀ (hS.locator_ne l hl)
  rw [locator_eq_mul_erase x hl]
  simp [hx]

theorem derivative_locator_eval_inv_ne {l : Nat} (hl : l ∈ J) : (derivative (locator x J)).eval (x l)⁻¹ ≠ 0 := by
  rw [hS.derivative_locator_eval_inv hl]
  exact mul_ne_zero (neg_ne_zero.mpr (hS.locator_ne l hl)) (hS.locator_erase_eval_inv_ne hl)

/-- Forney's formula for a first root `alpha^0`; the sign is nothing in characteristic 2. -/
theorem forney {l : Nat} (hl : l ∈ J) :
    x l * ((evaluator x v J).eval (x l)⁻¹ / (derivative (locator x J)).eval (x l)⁻¹) = -v l := by
  have hx := hS.locator_ne l hl
  have hother := hS.locator_erase_eval_inv_ne hl
  rw [hS.evaluator_eval_inv hl, hS.derivative_locator_eval_inv hl, mul_div_mul_right _ _ hother, div_neg, mul_neg,
    mul_div_cancel₀ _ hx]

end Syndrome

end
end

end Sys2Proof.Proofs

/-!
PROOFS. The Reed-Solomon code (spec/41_rs.md R120 to R126): syndromes as values of the block's polynomial, the distance
of the code, and the encoder.
-/

namespace Sys2Proof.Proofs

open Sys2Proof Sys2Proof.Machine
open Polynomial

/-! ## Codewords (R122, R124) -/

theorem isCodeword_iff {c : List Byte} {k : Nat} : isCodeword c k = true ↔ ∀ i < k, syndrome c i = 0 := by
  simp [isCodeword, syndromes]

/-- One round of Horner's rule (R122). -/
theorem syndrome_append_singleton (c : List Byte) (b : Byte) (i : Nat) :
    syndrome (c ++ [b]) i = gmul (syndrome c i) (alphaPow i) ^^^ b := by
  rw [syndrome, List.foldl_append]
  rfl

/-! ## The distance of two blocks (R127) -/

/-- The positions at which two blocks differ. -/
def errorPositions (c c' : List Byte) : Finset Nat :=
  (Finset.range c.length).filter fun j => c.getD j 0 ≠ c'.getD j 0

theorem mem_errorPositions {c c' : List Byte} {j : Nat} :
    j ∈ errorPositions c c' ↔ j < c.length ∧ c.getD j 0 ≠ c'.getD j 0 := by
  rw [errorPositions, Finset.mem_filter, Finset.mem_range]

theorem card_errorPositions {c c' : List Byte} (hlen : c'.length = c.length) :
    (errorPositions c c').card = distance c c' := by
  induction c generalizing c' with
  | nil => rfl
  | cons a c ih =>
    match c', hlen with
    | b :: c', hlen =>
      have hih := ih (Nat.succ.inj hlen)
      rw [errorPositions, Finset.card_filter] at hih ⊢
      rw [List.length_cons, Finset.sum_range_succ']
      simp only [List.getD_cons_succ, List.getD_cons_zero, hih, distance, List.zip_cons_cons, List.countP_cons]
      simp

/-- Blocks that agree outside a list of positions differ at most as often as the list is long. -/
theorem distance_le_length {c c' : List Byte} (hlen : c'.length = c.length) {js : List Nat}
    (h : ∀ j, j ∉ js → c'.getD j 0 = c.getD j 0) : distance c c' ≤ js.length := by
  rw [← card_errorPositions hlen]
  refine (Finset.card_le_card fun j hj => ?_).trans js.toFinset_card_le
  rw [List.mem_toFinset]
  by_contra hout
  exact (mem_errorPositions.mp hj).2 (h j hout).symm

theorem distance_self (c : List Byte) : distance c c = 0 :=
  Nat.le_zero.mp (distance_le_length (js := []) rfl fun _ _ => rfl)

/-- Blocks that begin alike differ at most in the rest. -/
theorem distance_append_le (d : List Byte) {e e' : List Byte} (hlen : e'.length = e.length) :
    distance (d ++ e) (d ++ e') ≤ e.length := by
  refine (distance_le_length (js := (List.range e.length).map (d.length + ·)) (by simp [hlen]) fun j hj => ?_).trans
    (by simp)
  rcases Nat.lt_or_ge j d.length with hlt | hge
  · rw [List.getD_append _ _ _ _ hlt, List.getD_append _ _ _ _ hlt]
  · have hout : d.length + e.length ≤ j := by
      by_contra hin
      exact hj (List.mem_map.mpr ⟨j - d.length, List.mem_range.mpr (by omega), by omega⟩)
    rw [List.getD_eq_default _ _ (by simp [hlen, hout]), List.getD_eq_default _ _ (by simp [hout])]

theorem eq_of_errorPositions_eq_empty {c c' : List Byte} (hlen : c'.length = c.length)
    (h : errorPositions c c' = ∅) : c = c' := by
  refine List.ext_getElem hlen.symm fun j hj hj' => ?_
  have hout : j ∉ errorPositions c c' := h ▸ Finset.notMem_empty j
  rw [mem_errorPositions, not_and_not_right, List.getD_eq_getElem _ _ hj, List.getD_eq_getElem _ _ hj'] at hout
  exact hout hj

/-! ## A block as a polynomial (R120) -/

section
variable {F : Type} [Field F] {φ : Byte → F}

/-- The value of a block at `x`, the first byte the coefficient of the highest degree (R120). -/
noncomputable def blockEval (φ : Byte → F) (x : F) (c : List Byte) : F := (toPoly φ c.reverse).eval x

theorem blockEval_append (x : F) (c d : List Byte) :
    blockEval φ x (c ++ d) = blockEval φ x c * x ^ d.length + blockEval φ x d := by
  simp only [blockEval, List.reverse_append, toPoly_append, eval_add, eval_mul, eval_pow, eval_X, List.length_reverse]
  ring

theorem blockEval_singleton (x : F) (a : Byte) : blockEval φ x [a] = φ a := by
  rw [blockEval, List.reverse_singleton, toPoly_singleton, eval_C]

/-- `alpha^(n-1-j)`, the locator of position `j` of a block of `n` bytes (R120). -/
def positionLocator (φ : Byte → F) (n j : Nat) : F := φ (alphaPow (n - 1 - j))

/-- What the bytes at position `j` differ by. -/
def errorValue (φ : Byte → F) (c c' : List Byte) (j : Nat) : F := φ (c.getD j 0 ^^^ c'.getD j 0)

end

section
variable {F : Type} [Field F] {φ : Byte → F} (hφ : ByteEmbedding φ)
include hφ

/-! ## Syndromes (R122) -/

/-- Horner's rule computes the value of the block. -/
theorem map_syndrome (c : List Byte) (i : Nat) : φ (syndrome c i) = blockEval φ (φ (alphaPow i)) c := by
  induction c using List.reverseRecOn with
  | nil => exact hφ.zero.trans eval_zero.symm
  | append_singleton c b ih =>
    rw [syndrome_append_singleton, hφ.xor, hφ.gmul, ih, blockEval_append, blockEval_singleton, List.length_singleton,
      pow_one]

theorem isCodeword_iff_eval {c : List Byte} {k : Nat} :
    isCodeword c k = true ↔ ∀ i < k, blockEval φ (φ (alphaPow i)) c = 0 := by
  simp only [isCodeword_iff, ← map_syndrome hφ, hφ.eq_zero_iff]

/-- R122 as a sum over the positions. -/
theorem map_syndrome_eq_sum (c : List Byte) (i : Nat) :
    φ (syndrome c i) = ∑ j ∈ Finset.range c.length, φ (c.getD j 0) * positionLocator φ c.length j ^ i := by
  induction c using List.reverseRecOn with
  | nil => exact hφ.zero
  | append_singleton c b ih =>
    rw [syndrome_append_singleton, hφ.xor, hφ.gmul, ih, List.length_append, List.length_singleton,
      Finset.sum_range_succ, Finset.sum_mul]
    congr 1
    · refine Finset.sum_congr rfl fun j hj => ?_
      have hj : j < c.length := Finset.mem_range.mp hj
      have hexp : c.length + 1 - 1 - j = (c.length - 1 - j) + 1 := by omega
      rw [List.getD_append _ _ _ _ hj, positionLocator, positionLocator, hexp, hφ.alphaPow (_ + 1),
        hφ.alphaPow (c.length - 1 - j), hφ.alphaPow i, pow_succ, mul_pow, mul_assoc, pow_right_comm]
    · rw [List.getD_append_right _ _ _ _ le_rfl, Nat.sub_self, List.getD_cons_zero, positionLocator,
        Nat.add_sub_cancel, Nat.sub_self, alphaPow_zero, hφ.one, one_pow, mul_one]

/-- The syndromes of two blocks differ by the power sums of their differences. -/
theorem map_syndrome_add {c c' : List Byte} (hlen : c'.length = c.length) (i : Nat) :
    φ (syndrome c i) + φ (syndrome c' i) =
      ∑ j ∈ errorPositions c c', errorValue φ c c' j * positionLocator φ c.length j ^ i := by
  rw [map_syndrome_eq_sum hφ, map_syndrome_eq_sum hφ, hlen, ← Finset.sum_add_distrib, errorPositions,
    Finset.sum_filter_of_ne]
  · refine Finset.sum_congr rfl fun j _ => ?_
    rw [errorValue, hφ.xor, add_mul]
  · intro j _ hne heq
    rw [errorValue, heq, BitVec.xor_self] at hne
    exact hne (by rw [show φ 0#8 = 0 from hφ.zero, zero_mul])

theorem positionLocator_ne_zero (n j : Nat) : positionLocator φ n j ≠ 0 :=
  mt hφ.eq_zero_iff.mp (alphaPow_ne_zero _)

/-- Different positions of a block of at most 255 bytes have different locators. -/
theorem positionLocator_injOn {n i j : Nat} (hn : n ≤ 255) (hi : i < n) (hj : j < n)
    (h : positionLocator φ n i = positionLocator φ n j) : i = j := by
  have := alphaPow_injOn (by omega) (by omega) (hφ.injective h)
  omega

theorem errorValue_ne_zero {c c' : List Byte} {j : Nat} (hj : j ∈ errorPositions c c') : errorValue φ c c' j ≠ 0 :=
  mt hφ.xor_eq_zero_iff.mp (mem_errorPositions.mp hj).2

theorem positionLocator_injOn_errorPositions (c c' : List Byte) (hn : c.length ≤ 255) :
    Set.InjOn (positionLocator φ c.length) (errorPositions c c') :=
  fun _ hi _ hj => positionLocator_injOn hφ hn (mem_errorPositions.mp hi).1 (mem_errorPositions.mp hj).1

theorem toPoly_syndromes_coeff (c : List Byte) (k i : Nat) :
    (toPoly φ (syndromes c k)).coeff i = if i < k then φ (syndrome c i) else 0 := by
  rw [toPoly_coeff hφ]
  split
  next hi => simp [syndromes, hi]
  next hi => rw [List.getD_eq_default _ _ (by simpa [syndromes] using hi), hφ.zero]

/-- The syndromes of a block are those of its differences from a codeword. -/
theorem syndrome_of_codeword {c c' : List Byte} {k : Nat} (hn : c.length ≤ 255) (hlen : c'.length = c.length)
    (hc' : isCodeword c' k = true) :
    Syndrome (toPoly φ (syndromes c k)) k (errorPositions c c') (positionLocator φ c.length) (errorValue φ c c') where
  eq_sum := by
    ext i
    rw [toPoly_syndromes_coeff hφ]
    simp only [finsetSum_coeff, coeff_C_mul, mul_pow, ← C_pow, coeff_X_pow]
    split
    next hi =>
      have hdiff := map_syndrome_add hφ hlen i
      rw [isCodeword_iff.mp hc' i hi, hφ.zero, add_zero] at hdiff
      rw [hdiff]
      refine Finset.sum_congr rfl fun j _ => ?_
      simp [hi]
    next hi => simp [hi]
  injOn := positionLocator_injOn_errorPositions hφ c c' hn
  locator_ne _ _ := positionLocator_ne_zero hφ _ _
  value_ne _ hj := errorValue_ne_zero hφ hj

end

/-! ## The distance of the code (R124) -/

/-- Two codewords that differ at no more than `k` positions are the same (R124). -/
theorem codeword_eq_of_distance_le {c c' : List Byte} {k : Nat} (hn : c.length ≤ 255) (hlen : c'.length = c.length)
    (hc : isCodeword c k = true) (hc' : isCodeword c' k = true) (hd : distance c c' ≤ k) : c = c' := by
  obtain ⟨F, _, _, φ, hφ⟩ := exists_byteEmbedding
  refine eq_of_errorPositions_eq_empty hlen (Finset.eq_empty_of_forall_notMem fun l hl => ?_)
  refine errorValue_ne_zero hφ hl (eq_zero_of_power_sums (positionLocator_injOn_errorPositions hφ c c' hn) ?_ hl)
  intro i hi
  have hik : i < k := by rw [card_errorPositions hlen] at hi; omega
  rw [← map_syndrome_add hφ hlen, isCodeword_iff.mp hc i hik, isCodeword_iff.mp hc' i hik, hφ.zero, add_zero]

/-! ## The encoder (R123, R125, R126) -/

section
variable {F : Type} [Field F] {φ : Byte → F} (hφ : ByteEmbedding φ)
include hφ

theorem toPoly_genPoly_succ (k : Nat) :
    toPoly φ (genPoly (k + 1)) = (X + C (φ (alphaPow k))) * toPoly φ (genPoly k) := by
  rw [genPoly, toPoly_polyAdd hφ, toPoly_polyScale hφ, toPoly, hφ.zero, C_0, zero_add, add_mul]

theorem genPoly_root [CharP F 2] {i k : Nat} (hi : i < k) :
    (toPoly φ (genPoly k)).eval (φ (alphaPow i)) = 0 := by
  induction k with
  | zero => exact absurd hi (Nat.not_lt_zero i)
  | succ k ih =>
    rw [toPoly_genPoly_succ hφ, eval_mul, mul_eq_zero]
    rcases Nat.lt_succ_iff_lt_or_eq.mp hi with hlt | rfl
    · exact .inr (ih hlt)
    · left
      rw [eval_add, eval_X, eval_C, CharTwo.add_self_eq_zero]

/-- The generator polynomial is monic of degree `k`. -/
theorem genPoly_monic (k : Nat) : (toPoly φ (genPoly k)).coeff k = 1 := by
  induction k with
  | zero => rw [toPoly_coeff hφ]; exact hφ.one
  | succ k ih =>
    have htop : (toPoly φ (genPoly k)).coeff (k + 1) = 0 := by
      rw [toPoly_coeff hφ, List.getD_eq_default _ _ (genPoly_length k).le, hφ.zero]
    rw [toPoly_genPoly_succ hφ, add_mul, coeff_add, coeff_X_mul, coeff_C_mul, ih, htop, mul_zero, add_zero]

/-- Without its leading coefficient the generator polynomial has the value `x^k` at each of its roots `x`. -/
theorem genPoly_take_eval [CharP F 2] {i k : Nat} (hi : i < k) :
    (toPoly φ ((genPoly k).take k)).eval (φ (alphaPow i)) = φ (alphaPow i) ^ k := by
  have hsplit : toPoly φ (genPoly k) = toPoly φ ((genPoly k).take k) + X ^ k := by
    ext i
    rw [coeff_add, coeff_toPoly_take hφ, coeff_X_pow]
    rcases lt_trichotomy i k with hlt | rfl | hgt
    · rw [if_pos hlt, if_neg hlt.ne, add_zero]
    · rw [if_neg (lt_irrefl i), if_pos rfl, zero_add, genPoly_monic hφ]
    · rw [if_neg hgt.not_gt, if_neg hgt.ne', add_zero, toPoly_coeff hφ,
        List.getD_eq_default _ _ ((genPoly_length k).trans_le hgt), hφ.zero]
  have hroot := genPoly_root hφ hi
  rw [hsplit, eval_add, eval_pow, eval_X] at hroot
  exact CharTwo.add_eq_zero.mp hroot

theorem blockEval_polyScale (x : F) (a : Byte) (c : List Byte) :
    blockEval φ x (polyScale a c) = φ a * blockEval φ x c := by
  rw [blockEval, polyScale, ← List.map_reverse, ← polyScale, toPoly_polyScale hφ, eval_mul, eval_C, blockEval]

theorem blockEval_zipWith (x : F) {c d : List Byte} (h : c.length = d.length) :
    blockEval φ x (List.zipWith (· ^^^ ·) c d) = blockEval φ x c + blockEval φ x d := by
  have hzip (p q : List Byte) (h : p.length = q.length) : List.zipWith (· ^^^ ·) p q = polyAdd p q := by
    induction p, q using polyAdd.induct with
    | case1 q => rw [List.length_eq_zero_iff.mp h.symm]; rfl
    | case2 p hp => rw [List.length_eq_zero_iff.mp h]; rfl
    | case3 a p b q ih => rw [List.zipWith_cons_cons, ih (Nat.succ.inj h), polyAdd]
  rw [blockEval, List.reverse_zipWith h, hzip _ _ (by simpa using h), toPoly_polyAdd hφ, eval_add]
  rfl

/-- One round of R126: at a root of the generator polynomial the remainder is multiplied by `x`, and the data byte
enters with the weight `x^k`. -/
theorem blockEval_encodeStep [CharP F 2] {x : F} {gHigh rem : List Byte} (hlen : gHigh.length = rem.length)
    (hne : rem ≠ []) (hg : blockEval φ x gHigh = x ^ rem.length) (d : Byte) :
    blockEval φ x (encodeStep gHigh rem d) = x * blockEval φ x rem + φ d * x ^ rem.length := by
  match rem, hne with
  | r :: rem, _ =>
    have hshift : blockEval φ x (rem ++ [0]) = blockEval φ x rem * x := by
      rw [blockEval_append, blockEval_singleton, hφ.zero, List.length_singleton, pow_one, add_zero]
    have hrem : blockEval φ x (r :: rem) = φ r * x ^ rem.length + blockEval φ x rem := by
      rw [← List.singleton_append, blockEval_append, blockEval_singleton]
    have hsame : (rem ++ [0]).length = (polyScale (d ^^^ r) gHigh).length := by
      simp [polyScale, hlen]
    calc blockEval φ x (encodeStep gHigh (r :: rem) d)
        = blockEval φ x (rem ++ [0]) + blockEval φ x (polyScale (d ^^^ r) gHigh) := blockEval_zipWith hφ x hsame
      _ = x * blockEval φ x (r :: rem) + φ d * x ^ (r :: rem).length := by
          rw [hshift, blockEval_polyScale hφ, hg, hφ.xor, hrem, List.length_cons]
          ring

theorem blockEval_foldl_encodeStep [CharP F 2] {x : F} {gHigh : List Byte} (hne : gHigh ≠ [])
    (hg : blockEval φ x gHigh = x ^ gHigh.length) (d rem : List Byte) (hlen : gHigh.length = rem.length) :
    blockEval φ x (d.foldl (encodeStep gHigh) rem) =
      blockEval φ x rem * x ^ d.length + blockEval φ x d * x ^ gHigh.length := by
  induction d generalizing rem with
  | nil => simp [blockEval, toPoly]
  | cons b d ih =>
    have hrem : rem ≠ [] := fun h => hne (List.length_eq_zero_iff.mp (by rw [hlen, h]; rfl))
    rw [List.foldl_cons, ih _ (hlen.trans (encodeStep_length hlen b).symm),
      blockEval_encodeStep hφ hlen hrem (hlen ▸ hg), ← hlen, ← List.singleton_append, blockEval_append,
      blockEval_singleton, List.length_append, List.length_singleton]
    ring

end

/-- The data bytes followed by the remainder are a codeword (R125, R126). -/
theorem isCodeword_append_rsEncode (d : List Byte) (k : Nat) : isCodeword (d ++ rsEncode d k) k = true := by
  obtain ⟨F, _, _, φ, hφ⟩ := exists_byteEmbedding
  rw [isCodeword_iff_eval hφ]
  intro i hi
  have hlen : (((genPoly k).take k).reverse).length = k := by simp [genPoly_length]
  have hne : ((genPoly k).take k).reverse ≠ [] := List.ne_nil_of_length_pos (by omega)
  have hg : blockEval φ (φ (alphaPow i)) ((genPoly k).take k).reverse = φ (alphaPow i) ^ k := by
    rw [blockEval, List.reverse_reverse, genPoly_take_eval hφ hi]
  have hzero : blockEval φ (φ (alphaPow i)) (List.replicate k 0) = 0 := by
    rw [blockEval, List.reverse_replicate, toPoly_replicate_zero hφ, eval_zero]
  have hrem := blockEval_foldl_encodeStep hφ hne (by rwa [hlen]) d (List.replicate k 0) (by simp [genPoly_length])
  rw [hzero, zero_mul, zero_add, hlen] at hrem
  rw [blockEval_append, rsEncode_length, rsEncode, hrem, CharTwo.add_self_eq_zero]

/-- Settles O41: the encoder's bytes are one choice, and the distance leaves no other. -/
theorem codewordsDifferInMoreThanKPositions : Obligations.CodewordsDifferInMoreThanKPositions := by
  unfold Obligations.CodewordsDifferInMoreThanKPositions
  intro n k _ hkn hn
  have hdist (c c' : List Byte) (hc : c.length = n) (hc' : c'.length = n) (hw : isCodeword c k = true)
      (hw' : isCodeword c' k = true) (hd : distance c c' ≤ k) : c = c' :=
    codeword_eq_of_distance_le (by omega) (hc'.trans hc.symm) hw hw' hd
  refine ⟨fun d hd => ⟨rsEncode d k, ⟨rsEncode_length d k, isCodeword_append_rsEncode d k⟩, ?unique⟩,
    fun c c' hc hc' hw hw' hne => ?distance⟩
  case distance =>
    by_contra hlt
    exact hne (hdist c c' hc hc' hw hw' (by omega))
  case unique =>
    rintro e ⟨he, hw⟩
    have hlength := rsEncode_length d k
    refine List.append_cancel_left (hdist _ _ ?_ ?_ hw (isCodeword_append_rsEncode d k) ?_)
    · rw [List.length_append]; omega
    · rw [List.length_append]; omega
    · exact (distance_append_le d (hlength.trans he.symm)).trans he.le

end Sys2Proof.Proofs

/-!
PROOFS. The decoder of R133 is bounded-distance decoding (spec/41_rs.md R127 to R134): what it returns is a codeword
within `floor(k/2)` positions, and if there is one it is returned.
-/

namespace Sys2Proof.Proofs

open Sys2Proof Sys2Proof.Machine
open Polynomial

/-! ## Correction at a list of positions (R133 step 4) -/

theorem getD_modify_xor (c : List Byte) (i j : Nat) (v : Byte) (hi : i < c.length) :
    (c.modify i (· ^^^ v)).getD j 0 = if j = i then c.getD i 0 ^^^ v else c.getD j 0 := by
  simp only [List.getD_eq_getElem?_getD, List.getElem?_modify]
  split
  next h => subst h; simp [hi]
  next h => rw [if_neg (Ne.symm h)]; simp

/-- Correction changes bytes only at the positions given. -/
theorem correctAt_frame {lam om : List Byte} {n : Nat} {js : List Nat} {c c' : List Byte}
    (hjs : ∀ j ∈ js, j < c.length) (h : correctAt lam om n js c = some c') :
    c'.length = c.length ∧ ∀ j, j ∉ js → c'.getD j 0 = c.getD j 0 := by
  induction js generalizing c with
  | nil =>
    obtain rfl : c = c' := Option.some.inj h
    exact ⟨rfl, fun _ _ => rfl⟩
  | cons i js ih =>
    rw [correctAt] at h
    split at h
    next => exact nomatch h
    next v _ =>
      obtain ⟨hlen, hout⟩ := ih (fun j hj => by simpa using hjs j (List.mem_cons_of_mem i hj)) h
      refine ⟨by simpa using hlen, fun j hj => ?_⟩
      rw [List.mem_cons, not_or] at hj
      rw [hout j hj.2, getD_modify_xor _ _ _ _ (hjs i List.mem_cons_self), if_neg hj.1]

/-- Where Forney's values are the differences from a block that agrees elsewhere, correction gives that block. -/
theorem correctAt_eq_some {lam om : List Byte} {n : Nat} {js : List Nat} (hnodup : js.Nodup) {c c' : List Byte}
    (hjs : ∀ j ∈ js, j < c.length) (hlen : c'.length = c.length)
    (hvalue : ∀ j ∈ js, forney lam om (n - 1 - j) = some (c.getD j 0 ^^^ c'.getD j 0))
    (hout : ∀ j, j ∉ js → c.getD j 0 = c'.getD j 0) : correctAt lam om n js c = some c' := by
  induction js generalizing c with
  | nil =>
    refine congrArg some (List.ext_getElem hlen.symm fun j hj hj' => ?_)
    have heq := hout j List.not_mem_nil
    rwa [List.getD_eq_getElem _ _ hj, List.getD_eq_getElem _ _ hj'] at heq
  | cons i js ih =>
    obtain ⟨hi, hnodup⟩ := List.nodup_cons.mp hnodup
    have hic := hjs i List.mem_cons_self
    have hget (j : Nat) := getD_modify_xor c i j (c.getD i 0 ^^^ c'.getD i 0) hic
    rw [correctAt, hvalue i List.mem_cons_self]
    refine ih hnodup (fun j hj => by simpa using hjs j (List.mem_cons_of_mem i hj)) (by simpa using hlen)
      (fun j hj => ?_) (fun j hj => ?_)
    · rw [hget, if_neg (by rintro rfl; exact hi hj), hvalue j (List.mem_cons_of_mem i hj)]
    · rw [hget]
      split
      next h => rw [h, ← BitVec.xor_assoc, BitVec.xor_self, BitVec.zero_xor]
      next h => exact hout j (List.mem_cons.not.mpr (not_or.mpr ⟨h, hj⟩))

/-! ## What the decoder returns (R133) -/

theorem mem_chien {lam : List Byte} {n j : Nat} :
    j ∈ chien lam n ↔ j < n ∧ polyEval lam (alphaPow ((255 - (n - 1 - j)) % 255)) = 0 := by
  simp [chien]

theorem chien_nodup (lam : List Byte) (n : Nat) : (chien lam n).Nodup := List.nodup_range.filter _

theorem rsDecode_of_isCodeword {c : List Byte} {k : Nat} (h : isCodeword c k = true) : rsDecode c k = some c :=
  if_pos h

/-- The register and the positions the decoder finds are consistent: neither too many nor roots missing (R133 steps 2
and 3). -/
def Locates (bm : BmState) (n k : Nat) : Prop :=
  bm.len ≤ k / 2 ∧ polyDegree bm.lam = bm.len ∧ (chien bm.lam n).length = bm.len

theorem locates_iff {bm : BmState} {n k : Nat} :
    Locates bm n k ↔ ¬ (k / 2 < bm.len ∨ polyDegree bm.lam ≠ bm.len ∨ (chien bm.lam n).length ≠ bm.len) := by
  rw [Locates, not_or, not_or, not_lt, not_not, not_not]

/-- Steps 4 and 5 of R133 on a block that is no codeword. -/
theorem rsDecode_eq_some_iff {c c' : List Byte} {k : Nat} (hc : isCodeword c k = false) :
    rsDecode c k = some c' ↔
      Locates (berlekampMassey (syndromes c k)) c.length k ∧
      correctAt (berlekampMassey (syndromes c k)).lam
        ((polyMul (syndromes c k) (berlekampMassey (syndromes c k)).lam).take k) c.length
        (chien (berlekampMassey (syndromes c k)).lam c.length) c = some c' ∧
      isCodeword c' k = true := by
  have hne : ¬ (syndromes c k).all (· == 0) = true := by
    rw [← isCodeword, hc]
    exact Bool.false_ne_true
  rw [rsDecode, if_neg hne, locates_iff]
  dsimp only
  split
  next hloc => simp [hloc]
  next hloc =>
    rw [and_iff_right hloc]
    cases correctAt _ _ _ _ _ with
    | none => simp
    | some d =>
      dsimp only
      split
      next hd =>
        refine ⟨fun h => ⟨h, ?_⟩, And.left⟩
        rwa [← Option.some.inj h]
      next hd =>
        refine ⟨nofun, fun ⟨h, hw⟩ => absurd ?_ hd⟩
        rwa [Option.some.inj h]

/-- Whatever the decoder returns is a codeword at most `floor(k/2)` positions away (R129(d), R133). -/
theorem rsDecode_sound {c c' : List Byte} {k : Nat} (h : rsDecode c k = some c') :
    c'.length = c.length ∧ isCodeword c' k = true ∧ distance c c' ≤ k / 2 := by
  by_cases hc : isCodeword c k = true
  · obtain rfl : c = c' := Option.some.inj ((rsDecode_of_isCodeword hc).symm.trans h)
    exact ⟨rfl, hc, (distance_self c).trans_le (Nat.zero_le _)⟩
  · obtain ⟨⟨hlen, -, hpos⟩, hcorrect, hw⟩ := (rsDecode_eq_some_iff (Bool.eq_false_of_not_eq_true hc)).mp h
    obtain ⟨hlength, hout⟩ := correctAt_frame (fun j hj => (mem_chien.mp hj).1) hcorrect
    exact ⟨hlength, hw, (distance_le_length hlength hout).trans (hpos.trans_le hlen)⟩

/-! ## One round of Berlekamp-Massey (R133 step 2) -/

section
variable {syn : List Byte} {st : BmState} {rr : Nat}

theorem bmStep_of_predicted (hd : discrepancy syn st rr = 0) :
    bmStep syn st rr = { st with shift := st.shift + 1 } := if_pos hd

/-- `Lam` after a wrong prediction. -/
def repairedLam (syn : List Byte) (st : BmState) (rr : Nat) : List Byte :=
  polyAdd st.lam (List.replicate st.shift 0 ++ polyScale (gdiv (discrepancy syn st rr) st.disc) st.prev)

theorem bmStep_of_longer (hd : discrepancy syn st rr ≠ 0) (hlen : 2 * st.len ≤ rr) :
    bmStep syn st rr =
      { lam := repairedLam syn st rr, prev := st.lam, len := rr + 1 - st.len, shift := 1,
        disc := discrepancy syn st rr } :=
  (if_neg hd).trans (if_pos hlen)

theorem bmStep_of_same_length (hd : discrepancy syn st rr ≠ 0) (hlen : ¬ 2 * st.len ≤ rr) :
    bmStep syn st rr = { st with lam := repairedLam syn st rr, shift := st.shift + 1 } :=
  (if_neg hd).trans (if_neg hlen)

end

/-- What Berlekamp-Massey keeps: the register predicts the syndromes so far, the former register can repair it, and it
is no longer than the number of errors. -/
structure BmInvariant {F : Type} [Field F] (φ : Byte → F) (syn : List Byte) (errors : Nat) (st : BmState) (rr : Nat) :
    Prop where
  predicts : Predicts (toPoly φ syn) (toPoly φ st.lam) st.len rr
  repairs : Repairs (toPoly φ syn) (X ^ st.shift * toPoly φ st.prev) st.len rr (φ st.disc)
  len_le : st.len ≤ errors

section
variable {F : Type} [Field F] {φ : Byte → F} (hφ : ByteEmbedding φ)
include hφ

theorem map_foldl_xor (f : Nat → Byte) (a : Byte) (n : Nat) :
    φ ((List.range n).foldl (fun d i => d ^^^ f i) a) = ∑ i ∈ Finset.range n, φ (f i) + φ a := by
  induction n with
  | zero => simp
  | succ n ih =>
    rw [List.range_succ, List.foldl_append, List.foldl_cons, List.foldl_nil, hφ.xor, ih, Finset.sum_range_succ]
    ring

/-- The discrepancy is the coefficient the register fails to predict. -/
theorem map_discrepancy {syn : List Byte} {st : BmState} {rr : Nat}
    (h : Predicts (toPoly φ syn) (toPoly φ st.lam) st.len rr) :
    φ (discrepancy syn st rr) = (toPoly φ st.lam * toPoly φ syn).coeff rr := by
  have htail : ∑ m ∈ Finset.range st.len, (toPoly φ st.lam).coeff (m + 1) * (toPoly φ syn).coeff (rr - (m + 1)) =
      ∑ m ∈ Finset.range rr, (toPoly φ st.lam).coeff (m + 1) * (toPoly φ syn).coeff (rr - (m + 1)) := by
    refine Finset.sum_subset (Finset.range_subset_range.mpr h.len_le) fun m _ hm => ?_
    rw [coeff_eq_zero_of_natDegree_lt, zero_mul]
    exact h.natDegree_le.trans_lt (Nat.lt_succ_of_le (not_lt.mp fun hlt => hm (Finset.mem_range.mpr hlt)))
  rw [coeff_mul, Finset.Nat.sum_antidiagonal_eq_sum_range_succ fun a b => (toPoly φ st.lam).coeff a *
    (toPoly φ syn).coeff b, Finset.sum_range_succ', h.coeff_zero, one_mul, ← htail, discrepancy, map_foldl_xor hφ]
  simp only [hφ.gmul, toPoly_coeff hφ, Nat.sub_zero]

theorem toPoly_repairedLam [CharP F 2] (syn : List Byte) (st : BmState) (rr : Nat) :
    toPoly φ (repairedLam syn st rr) =
      toPoly φ st.lam - C (φ (discrepancy syn st rr) / φ st.disc) * (X ^ st.shift * toPoly φ st.prev) := by
  rw [repairedLam, toPoly_polyAdd hφ, toPoly_append, toPoly_replicate_zero hφ, List.length_replicate,
    toPoly_polyScale hφ, hφ.gdiv, CharTwo.sub_eq_add]
  ring

theorem bmInvariant_start (syn : List Byte) (errors : Nat) :
    BmInvariant φ syn errors { lam := [1], prev := [1], len := 0, shift := 1, disc := 1 } 0 where
  predicts := by
    rw [toPoly_singleton, hφ.one, C_1]
    exact predicts_one
  repairs := by
    rw [toPoly_singleton, hφ.one, C_1, pow_one, mul_one]
    exact repairs_X
  len_le := Nat.zero_le errors

theorem bmStep_invariant [CharP F 2] {syn : List Byte} {k rr : Nat} {J : Finset Nat} {x v : Nat → F} {st : BmState}
    (hS : Syndrome (toPoly φ syn) k J x v) (hrr : rr < k) (h : BmInvariant φ syn J.card st rr) :
    BmInvariant φ syn J.card (bmStep syn st rr) (rr + 1) := by
  obtain ⟨hpred, hrep, hlen⟩ := h
  have hd := map_discrepancy hφ hpred
  have hshift := hrep.succ
  rw [← mul_assoc, ← pow_succ'] at hshift
  by_cases hzero : discrepancy syn st rr = 0
  · rw [bmStep_of_predicted hzero]
    rw [hzero, hφ.zero] at hd
    exact ⟨hpred.succ hd.symm, hshift, hlen⟩
  · have hne : φ (discrepancy syn st rr) ≠ 0 := mt hφ.eq_zero_iff.mp hzero
    by_cases hgrow : 2 * st.len ≤ rr
    · rw [bmStep_of_longer hzero hgrow]
      have hbound := hpred.lt_of_wrong hS hrr (hd ▸ hne)
      refine ⟨?_, ?_, by dsimp only; omega⟩
      · rw [toPoly_repairedLam hφ]
        exact hpred.repair hrep hd.symm (by dsimp only; omega) (by dsimp only; omega) (by dsimp only; omega)
      · rw [pow_one]
        exact hpred.repairs hd.symm hne
    · rw [bmStep_of_same_length hzero hgrow]
      refine ⟨?_, hshift, hlen⟩
      rw [toPoly_repairedLam hφ]
      have := hpred.len_le
      exact hpred.repair hrep hd.symm le_rfl (by dsimp only; omega) (by dsimp only; omega)

theorem berlekampMassey_invariant [CharP F 2] {syn : List Byte} {k : Nat} {J : Finset Nat} {x v : Nat → F}
    (hk : syn.length = k) (hS : Syndrome (toPoly φ syn) k J x v) :
    BmInvariant φ syn J.card (berlekampMassey syn) k := by
  subst hk
  have hround (rr : Nat) (hrr : rr ≤ syn.length) : BmInvariant φ syn J.card
      ((List.range rr).foldl (bmStep syn) { lam := [1], prev := [1], len := 0, shift := 1, disc := 1 }) rr := by
    induction rr with
    | zero => exact bmInvariant_start hφ syn _
    | succ rr ih =>
      rw [List.range_succ, List.foldl_append]
      exact bmStep_invariant hφ hS hrr (ih (Nat.le_of_succ_le hrr))
  exact hround _ le_rfl

/-! ## The errors are found (R133 steps 2 to 4) -/

section
variable {c c' : List Byte} {k : Nat} {lam : List Byte}
  (hS : Syndrome (toPoly φ (syndromes c k)) k (errorPositions c c') (positionLocator φ c.length) (errorValue φ c c'))
  (hlam : toPoly φ lam = locator (positionLocator φ c.length) (errorPositions c c'))
include hS hlam

/-- The roots of the locator polynomial are at the error positions and at no other position of the block. -/
theorem mem_chien_iff (hn : c.length ≤ 255) {j : Nat} : j ∈ chien lam c.length ↔ j ∈ errorPositions c c' := by
  rw [mem_chien]
  have hroot (hj : j < c.length) : polyEval lam (alphaPow ((255 - (c.length - 1 - j)) % 255)) = 0 ↔
      j ∈ errorPositions c c' := by
    rw [← hφ.eq_zero_iff, ← eval_toPoly hφ, hφ.alphaPow_neg (by omega), hlam,
      locator_eval_eq_zero_iff hS.locator_ne]
    constructor
    · rintro ⟨l, hl, hinv⟩
      have hjl := positionLocator_injOn hφ hn hj (mem_errorPositions.mp hl).1 (inv_injective hinv)
      rwa [hjl]
    · exact fun hj => ⟨j, hj, rfl⟩
  refine ⟨fun ⟨hj, h⟩ => (hroot hj).mp h, fun h => ?_⟩
  obtain ⟨hj, -⟩ := mem_errorPositions.mp h
  exact ⟨hj, (hroot hj).mpr h⟩

theorem chien_length (hn : c.length ≤ 255) : (chien lam c.length).length = (errorPositions c c').card := by
  rw [← List.toFinset_card_of_nodup (chien_nodup lam c.length)]
  congr 1
  ext j
  rw [List.mem_toFinset, mem_chien_iff hφ hS hlam hn]

/-- R133's `Om` is the error evaluator. -/
theorem toPoly_om (hk : (errorPositions c c').card ≤ k) :
    toPoly φ ((polyMul (syndromes c k) lam).take k) =
      evaluator (positionLocator φ c.length) (errorValue φ c c') (errorPositions c c') := by
  ext i
  rw [coeff_toPoly_take hφ, toPoly_polyMul hφ, mul_comm, hlam]
  split
  next hi => exact hS.coeff_locator_mul hi
  next hi => exact (evaluator_coeff_eq_zero _ _ _ (hk.trans (not_lt.mp hi))).symm

/-- Forney's value at an error position is the difference of the blocks there. -/
theorem forney_eq_some [CharP F 2] (hk : (errorPositions c c').card ≤ k) {j : Nat} (hj : j ∈ errorPositions c c') :
    forney lam ((polyMul (syndromes c k) lam).take k) (c.length - 1 - j) = some (c.getD j 0 ^^^ c'.getD j 0) := by
  have hinv : φ (ginv (alphaPow (c.length - 1 - j))) = (positionLocator φ c.length j)⁻¹ := hφ.ginv _
  have hden := hS.derivative_locator_eval_inv_ne hj
  rw [← hlam, ← toPoly_polyDeriv hφ, ← hinv, eval_toPoly hφ, Ne, hφ.eq_zero_iff] at hden
  have hvalue := hS.forney hj
  rw [← hlam, ← toPoly_om hφ hS hlam hk, ← toPoly_polyDeriv hφ, ← hinv, eval_toPoly hφ, eval_toPoly hφ, ← hφ.gdiv,
    CharTwo.neg_eq, positionLocator, ← hφ.gmul, errorValue, hφ.injective.eq_iff] at hvalue
  have hne := hφ.injective.ne_iff.mp ((hS.value_ne j hj).trans_eq hφ.zero.symm)
  simp only [forney]
  rw [if_neg hden, hvalue, if_neg hne]

end

end

/-- If a codeword is at most `floor(k/2)` positions from the block, the decoder returns it (R127, R129(b), R132). -/
theorem rsDecode_complete {c c' : List Byte} {k : Nat} (hn : c.length ≤ 255) (hlen : c'.length = c.length)
    (hc' : isCodeword c' k = true) (hd : distance c c' ≤ k / 2) : rsDecode c k = some c' := by
  by_cases hc : isCodeword c k = true
  · rw [rsDecode_of_isCodeword hc, codeword_eq_of_distance_le hn hlen hc hc' (by omega)]
  · obtain ⟨F, _, _, φ, hφ⟩ := exists_byteEmbedding
    have hsyn : (syndromes c k).length = k := by simp [syndromes]
    have hS := syndrome_of_codeword hφ hn hlen hc'
    have hcard := card_errorPositions hlen
    obtain ⟨hpred, -, hle⟩ := berlekampMassey_invariant hφ hsyn hS
    obtain ⟨hbm, hdeg, hlam⟩ := hpred.eq_locator hS hle (by omega)
    rw [natDegree_toPoly hφ] at hdeg
    refine (rsDecode_eq_some_iff (Bool.eq_false_of_not_eq_true hc)).mpr ⟨⟨?_, ?_, ?_⟩, ?_, hc'⟩
    · omega
    · rw [hdeg, hbm]
    · rw [chien_length hφ hS hlam hn, hbm]
    · have hmem (j : Nat) := mem_chien_iff hφ hS hlam hn (j := j)
      refine correctAt_eq_some (chien_nodup _ _) (fun j hj => (mem_chien.mp hj).1) hlen
        (fun j hj => forney_eq_some hφ hS hlam (by omega) ((hmem j).mp hj)) (fun j hj => ?_)
      rw [hmem, mem_errorPositions, not_and_not_right] at hj
      rcases Nat.lt_or_ge j c.length with hin | hout
      · exact hj hin
      · rw [List.getD_eq_default _ _ hout, List.getD_eq_default _ _ (hlen.trans_le hout)]

end Sys2Proof.Proofs

/-!
PROOFS. The commands of the RS unit (spec/41_rs.md R125, R127, R129, R130) on `MEM`.
-/

namespace Sys2Proof.Proofs

open Sys2Proof Sys2Proof.Machine

/-! ## When the checks pass (R105, R121, R55) -/

/-- Where every check passes, the answer of `RSENC` or `RSDEC` is what stands behind the checks. -/
theorem rs_checks_pass {s : State} {ra : Reg} {n k : Nat} (h : s.RsRuns ra n k) (i : Instr) (rest : Result) :
    (if !s.tblRdy then s.defect i .tablesNotReady 0 else rsChecked i ra n k s rest) = rest := by
  obtain ⟨hrdy, hk, hkn, -, hin⟩ := h
  have hlegal : ¬ (!rsLegal n k) = true := by
    rw [not_rsLegal_iff]
    omega
  have hbounds : ¬ (!s.inBounds (s.num ra) n) = true := by
    rw [not_inBounds_iff]
    omega
  rw [ready_check hrdy, rsChecked, if_neg hlegal, if_neg hbounds]

theorem exec_rsenc {s : State} {ra : Reg} {n k : Nat} (h : s.RsRuns ra n k) :
    exec (.rsenc ra n k) s =
      .next (s.setBytes (s.num ra + (n - k)) (rsEncode (s.bytesAt (s.num ra) (n - k)) k)) :=
  rs_checks_pass h _ _

/-- The state after the block of `n` bytes at `base` is corrected to `c'`: the differing bytes written, their number in
`rd` (R127). -/
def corrected (s : State) (rd : Reg) (base n : Nat) (c' : List Byte) : State :=
  (s.setCells (diffFrom base (s.bytesAt base n) c')).setReg rd
    (BitVec.ofNat 32 (diffFrom base (s.bytesAt base n) c').length)

theorem exec_rsdec_of_some {s : State} {rd ra : Reg} {n k : Nat} (h : s.RsRuns ra n k) {c' : List Byte}
    (hd : rsDecode (s.bytesAt (s.num ra) n) k = some c') :
    exec (.rsdec rd ra n k) s = .next (corrected s rd (s.num ra) n c') :=
  (rs_checks_pass h _ _).trans (by rw [hd]; rfl)

theorem exec_rsdec_of_none {s : State} {rd ra : Reg} {n k : Nat} (h : s.RsRuns ra n k)
    (hd : rsDecode (s.bytesAt (s.num ra) n) k = none) :
    exec (.rsdec rd ra n k) s = .next (s.takeError .reedSolomonUnrecoverable (encode (.rsdec rd ra n k)) 0) :=
  (rs_checks_pass h _ _).trans (by rw [hd]; rfl)

/-! ## The bytes that differ (R127) -/

/-- The pairs are the positions where the blocks differ, with the new byte. -/
theorem mem_diffFrom_iff {j : Nat} {c c' : List Byte} (hlen : c'.length = c.length) {p : Nat × Byte} :
    p ∈ diffFrom j c c' ↔ ∃ i ∈ errorPositions c c', p = (j + i, c'.getD i 0) := by
  induction c generalizing j c' with
  | nil => simp [diffFrom, errorPositions]
  | cons a c ih =>
    match c', hlen with
    | b :: c', hlen =>
      have htail := ih (j := j + 1) (Nat.succ.inj hlen)
      rw [diffFrom, ← Nat.or_exists_add_one]
      simp only [mem_errorPositions] at htail ⊢
      simp only [List.getD_cons_zero, List.getD_cons_succ, List.length_cons, Nat.succ_lt_succ_iff, Nat.zero_lt_succ,
        true_and, Nat.add_zero, ← Nat.add_assoc, Nat.add_right_comm j _ 1, ← htail]
      split
      next h => simp [h]
      next h => simp [h]

theorem diffFrom_length (j : Nat) (c c' : List Byte) : (diffFrom j c c').length = distance c c' := by
  induction c generalizing j c' with
  | nil => rfl
  | cons a c ih =>
    cases c' with
    | nil => rfl
    | cons b c' =>
      rw [distance, List.zip_cons_cons, List.countP_cons, ← distance, ← ih (j + 1)]
      by_cases h : a = b <;> simp [diffFrom, h]

theorem diffFrom_addresses_nodup (j : Nat) (c c' : List Byte) : ((diffFrom j c c').map (·.1)).Nodup := by
  induction c generalizing j c' with
  | nil => exact List.nodup_nil
  | cons a c ih =>
    cases c' with
    | nil => exact List.nodup_nil
    | cons b c' =>
      rw [diffFrom]
      split
      · exact ih _ _
      · refine List.nodup_cons.mpr ⟨fun h => ?_, ih _ _⟩
        obtain ⟨p, hp, hpj⟩ := List.mem_map.mp h
        have := mem_diffFrom hp
        dsimp only at hpj
        omega

/-! ## The corrected block -/

theorem bytesAt_getD (s : State) (base : Nat) {n i : Nat} (hi : i < n) :
    (s.bytesAt base n).getD i 0 = s.byteAt (base + i) := by
  rw [List.getD_eq_getElem _ _ (by rwa [bytesAt_length])]
  exact Memory.readBytes_getElem _ _ _ _ _

/-- A block of `n` bytes is read off byte by byte. -/
theorem bytesAt_eq_iff {s : State} {base n : Nat} {c : List Byte} (hlen : c.length = n) :
    s.bytesAt base n = c ↔ ∀ i < n, s.byteAt (base + i) = c.getD i 0 := by
  constructor
  · rintro rfl i hi
    exact (bytesAt_getD s base hi).symm
  · intro h
    refine List.ext_getElem ((bytesAt_length s base n).trans hlen.symm) fun i hi hi' => ?_
    rw [← List.getD_eq_getElem _ 0 hi, ← List.getD_eq_getElem _ 0 hi', bytesAt_getD s base (hlen ▸ hi')]
    exact h i (hlen ▸ hi')

section
variable {s : State} {rd : Reg} {base n : Nat} {c' : List Byte} (hlen : c'.length = n)
include hlen

theorem corrected_bytesAt : (corrected s rd base n c').bytesAt base n = c' := by
  have hlen' : c'.length = (s.bytesAt base n).length := hlen.trans (bytesAt_length s base n).symm
  rw [bytesAt_eq_iff hlen]
  intro i hi
  change (s.setCells (diffFrom base (s.bytesAt base n) c')).byteAt (base + i) = c'.getD i 0
  by_cases hdiff : i ∈ errorPositions (s.bytesAt base n) c'
  · exact byteAt_setCells_inside s _ (diffFrom_addresses_nodup _ _ _) (base + i, c'.getD i 0)
      ((mem_diffFrom_iff hlen').mpr ⟨i, hdiff, rfl⟩)
  · rw [byteAt_setCells_outside]
    · rw [mem_errorPositions, not_and_not_right, bytesAt_length, bytesAt_getD s base hi] at hdiff
      exact hdiff hi
    · intro p hp hpi
      obtain ⟨l, hl, rfl⟩ := (mem_diffFrom_iff hlen').mp hp
      obtain rfl : l = i := by dsimp only at hpi; omega
      exact hdiff hl

omit hlen in
theorem corrected_byteAt_outside {a : Nat} (ha : a < base ∨ base + n ≤ a) :
    (corrected s rd base n c').byteAt a = s.byteAt a := by
  refine byteAt_setCells_outside s _ a fun p hp => ?_
  have hrange := mem_diffFrom hp
  rw [bytesAt_length] at hrange
  omega

omit hlen in
theorem corrected_eq : corrected s rd base n c' =
    { s.setReg rd (BitVec.ofNat 32 (distance (s.bytesAt base n) c')) with mem := (corrected s rd base n c').mem } := by
  rw [← diffFrom_length base]
  rfl

end

/-! ## The encoded block -/

/-- Bytes written behind a block stand behind it when the two are read together. -/
theorem setBytes_bytesAt_append (s : State) (base m : Nat) (e : List Byte) :
    (s.setBytes (base + m) e).bytesAt base (m + e.length) = s.bytesAt base m ++ e := by
  rw [bytesAt_eq_iff (by rw [List.length_append, bytesAt_length])]
  intro i hi
  rw [byteAt_setBytes]
  split
  next h =>
    rw [List.getD_append_right _ _ _ _ (by rw [bytesAt_length]; omega), bytesAt_length,
      List.getD_eq_getElem _ _ (by omega)]
    congr 1
    omega
  next h => rw [List.getD_append _ _ _ _ (by rw [bytesAt_length]; omega), bytesAt_getD s base (by omega)]

/-! ## The obligations -/

/-- Settles O40: the bytes read back are the data bytes and behind them the encoder's. -/
theorem rsencMakesTheBlockACodeword : Obligations.RsencMakesTheBlockACodeword := by
  unfold Obligations.RsencMakesTheBlockACodeword
  intro ra n k s h
  obtain ⟨-, -, hkn, -, -⟩ := id h
  have houtside (a : Nat) (ha : a < s.num ra + (n - k) ∨ s.num ra + n ≤ a) :
      (s.setBytes (s.num ra + (n - k)) (rsEncode (s.bytesAt (s.num ra) (n - k)) k)).byteAt a = s.byteAt a :=
    Memory.read_writeBytes_outside _ _ _ _ (by rw [rsEncode_length]; omega)
  refine ⟨_, exec_rsenc h, rfl, ?data, ?codeword, houtside⟩
  case codeword =>
    have hblock := setBytes_bytesAt_append s (s.num ra) (n - k) (rsEncode (s.bytesAt (s.num ra) (n - k)) k)
    rw [rsEncode_length, Nat.sub_add_cancel hkn.le] at hblock
    rw [hblock]
    exact isCodeword_append_rsEncode _ _
  case data =>
    refine (bytesAt_eq_iff (bytesAt_length _ _ _)).mpr fun i hi => ?_
    rw [bytesAt_getD s _ hi]
    exact houtside _ (.inl (by omega))

/-- Settles O42: the decoder returns the codeword if there is one, and what it returns is one. -/
theorem rsdecDecodesToTheBoundedDistance : Obligations.RsdecDecodesToTheBoundedDistance := by
  unfold Obligations.RsdecDecodesToTheBoundedDistance
  intro rd ra n k s h
  obtain ⟨-, -, -, hn, -⟩ := id h
  have hblock := bytesAt_length s (s.num ra) n
  refine ⟨fun c hc hw hd => ⟨corrected s rd (s.num ra) n c, ?_, corrected_bytesAt hc,
    fun a => corrected_byteAt_outside, corrected_eq⟩, fun hnone => ?_⟩
  · exact exec_rsdec_of_some h (rsDecode_complete (by omega) (hc.trans hblock.symm) hw hd)
  · refine exec_rsdec_of_none h (Option.eq_none_iff_forall_ne_some.mpr fun c hc => ?_)
    obtain ⟨hlen, hw, hd⟩ := rsDecode_sound hc
    exact absurd hd (not_le.mpr (hnone c (hlen.trans hblock) hw))

/-- Settles O43: a codeword decodes to itself, so no byte differs. -/
theorem rsdecLeavesACodewordAlone : Obligations.RsdecLeavesACodewordAlone := by
  unfold Obligations.RsdecLeavesACodewordAlone
  intro rd ra n k s h hw
  have hself : diffFrom (s.num ra) (s.bytesAt (s.num ra) n) (s.bytesAt (s.num ra) n) = [] := by
    rw [← List.length_eq_zero_iff, diffFrom_length, distance_self]
  rw [exec_rsdec_of_some h (rsDecode_of_isCodeword hw), corrected, hself]
  rfl

/-- Settles O44: the decoder is sound, and without a codeword only the error registers change. -/
theorem rsdecSuccessIsSound : Obligations.RsdecSuccessIsSound := by
  unfold Obligations.RsdecSuccessIsSound
  intro rd ra n k s t h hready hexec
  cases hd : rsDecode (s.bytesAt (s.num ra) n) k with
  | none =>
    obtain rfl := Host.Outcome.next.inj ((exec_rsdec_of_none h hd).symm.trans hexec)
    exact ⟨fun hrun => absurd hrun (target_ne_ready .reedSolomonUnrecoverable), fun _ => ⟨rfl, rfl, rfl⟩⟩
  | some c =>
    obtain rfl := Host.Outcome.next.inj ((exec_rsdec_of_some h hd).symm.trans hexec)
    obtain ⟨hlen, hw, hdist⟩ := rsDecode_sound hd
    rw [bytesAt_length] at hlen
    rw [corrected_bytesAt hlen]
    exact ⟨fun _ => ⟨hw, hdist, fun a => corrected_byteAt_outside, corrected_eq⟩, fun hrun => absurd hready hrun⟩

end Sys2Proof.Proofs

/-!
PROOFS. The lengths of the blocks (spec/43_interleave.md R172, R173, R181).
-/

namespace Sys2Proof.Proofs

open Sys2Proof Sys2Proof.Machine

/-- The short blocks first, then the long ones (R173). -/
theorem offs_eq_short_add_long (e : BlkEntry) (b : Nat) :
    e.offs b = min b e.g1n * (e.g1k + e.ecc) + (b - e.g1n) * (e.g1k + 1 + e.ecc) := by
  induction b with
  | zero => simp [BlkEntry.offs]
  | succ b ih =>
    rw [BlkEntry.offs, ih, BlkEntry.nlen, BlkEntry.dlen]
    split
    next h =>
      have hsucc : b + 1 ≤ e.g1n := h
      rw [Nat.min_eq_left h.le, Nat.min_eq_left hsucc, Nat.sub_eq_zero_of_le h.le, Nat.sub_eq_zero_of_le hsucc]
      ring
    next h =>
      have hle : e.g1n ≤ b := not_lt.mp h
      rw [Nat.min_eq_right hle, Nat.min_eq_right (Nat.le_add_right_of_le hle), Nat.sub_add_comm hle]
      ring

theorem blkEntry_total_eq (e : BlkEntry) : e.total = e.g1n * (e.g1k + e.ecc) + e.g2n * (e.g1k + 1 + e.ecc) := by
  rw [BlkEntry.total, offs_eq_short_add_long, BlkEntry.blocks, Nat.min_eq_right (Nat.le_add_right _ _),
    Nat.add_sub_cancel_left]

/-- R172 field by field. -/
theorem blkEntry_wf_iff (e : BlkEntry) (ver : Nat) : e.wf ver = true ↔
    1 ≤ e.ecc ∧ 1 ≤ e.g1n ∧ 1 ≤ e.g1k ∧ e.g1k + 1 + e.ecc ≤ 255 ∧
      e.g1n * (e.g1k + e.ecc) + e.g2n * (e.g1k + 1 + e.ecc) = totalCodewords ver ∧ totalCodewords ver ≤ 3706 := by
  simp only [BlkEntry.wf, Bool.and_eq_true, decide_eq_true_eq, and_assoc]

/-- A legal table has a well-formed entry for every version and level (R171, R172). -/
theorem blkTab_entry_wf {tab : List Word} (h : blkTabWf tab = true) {ver : Nat} (h1 : 1 ≤ ver) (h40 : ver ≤ 40)
    (lvl : EccLevel) : (BlkEntry.ofWord (tab.getD (4 * (ver - 1) + lvl.ord) 0)).wf ver = true := by
  have hord := ord_lt lvl
  rw [blkTabWf, Bool.and_eq_true, List.all_eq_true] at h
  have hentry := h.2 (4 * (ver - 1) + lvl.ord) (List.mem_range.mpr (by omega))
  rwa [show (4 * (ver - 1) + lvl.ord) / 4 + 1 = ver by omega] at hentry

/-- Every block has a data codeword, so its length is legal for its ECC words (R121). -/
theorem rsLegal_nlen {e : BlkEntry} {ver : Nat} (h : e.wf ver = true) (b : Nat) : rsLegal (e.nlen b) e.ecc = true := by
  obtain ⟨hecc, -, hg1k, -⟩ := (blkEntry_wf_iff e ver).mp h
  have hdata : 1 ≤ e.dlen b := by
    unfold BlkEntry.dlen
    split <;> omega
  rw [rsLegal, Bool.and_eq_true, decide_eq_true_iff, decide_eq_true_iff, BlkEntry.nlen]
  omega

/-- Settles O51: the sum over the short and the long blocks is the one R172 compares with the total. -/
theorem blockLengthsAddUpToTheTotal : Obligations.BlockLengthsAddUpToTheTotal := by
  unfold Obligations.BlockLengthsAddUpToTheTotal
  refine ⟨blkEntry_total_eq, fun tab ver lvl htab h1 h40 => ?_⟩
  have hwf := blkTab_entry_wf htab h1 h40 lvl
  obtain ⟨-, -, -, -, htotal, -⟩ := (blkEntry_wf_iff _ ver).mp hwf
  exact ⟨(blkEntry_total_eq _).trans htotal, rsLegal_nlen hwf⟩

end Sys2Proof.Proofs

/-!
PROOFS. The BCH unit (spec/42_bch.md R150 to R158): the codes are linear, so their least distance is their least weight;
two codewords within 3 bits of one word are then the same, and the search returns the one there is.
-/

namespace Sys2Proof.Proofs

open Sys2Proof Sys2Proof.Machine

/-! ## Correcting up to half the least distance -/

/-- The number of 1 bits of a sum is the Hamming distance of the words as rows of bits. -/
theorem popcount_xor_eq_hammingDist {n : Nat} (u v : BitVec n) :
    popcount (u ^^^ v) = hammingDist (fun i : Fin n => u.getLsbD i) (fun i : Fin n => v.getLsbD i) := by
  rw [popcount, ← List.map_coe_finRange_eq_range, List.countP_map, hammingDist, ← List.toFinset_finRange,
    List.Nodup.card_eq_countP (List.nodup_finRange n)]
  refine List.countP_congr fun i _ => ?_
  simp

/-- Where different values have codewords more than `2 * e` bits apart, one value at most has its codeword within `e`
bits of a word. -/
theorem eq_of_codewords_near {k n e : Nat} {cw : BitVec k → BitVec n}
    (hdist : ∀ d d', d ≠ d' → 2 * e < popcount (cw d ^^^ cw d')) {u : BitVec n} {d d' : BitVec k}
    (hd : popcount (u ^^^ cw d) ≤ e) (hd' : popcount (u ^^^ cw d') ≤ e) : d = d' := by
  by_contra hne
  have hfar := hdist d d' hne
  rw [popcount_xor_eq_hammingDist] at hd hd' hfar
  have htri := hammingDist_triangle_left (fun i : Fin n => (cw d).getLsbD i) (fun i => (cw d').getLsbD i)
    (fun i => u.getLsbD i)
  omega

/-- A search through all values finds the one that has the property, when only one can have it. -/
theorem find?_bitVec_eq_some_iff {k : Nat} {p : BitVec k → Bool} (hunique : ∀ d d', p d = true → p d' = true → d = d')
    (d : BitVec k) : ((List.range (2 ^ k)).map (BitVec.ofNat k)).find? p = some d ↔ p d = true := by
  refine ⟨List.find?_some, fun hd => ?_⟩
  cases hf : ((List.range (2 ^ k)).map (BitVec.ofNat k)).find? p with
  | some d' => rw [hunique d' d (List.find?_some hf) hd]
  | none =>
    have hmem : d ∈ (List.range (2 ^ k)).map (BitVec.ofNat k) :=
      List.mem_map.mpr ⟨d.toNat, List.mem_range.mpr d.isLt, (BitVec.ofNat_toNat k d).trans (BitVec.setWidth_eq d)⟩
    exact absurd hd (List.find?_eq_none.mp hf d hmem)

/-- The least distance of a linear code is its least weight. -/
theorem le_popcount_of_weights {k n m : Nat} {cw : BitVec k → BitVec n}
    (hlinear : ∀ d d', cw (d ^^^ d') = cw d ^^^ cw d') (hweight : ∀ d, d ≠ 0 → m ≤ popcount (cw d))
    (d d' : BitVec k) (hne : d ≠ d') : m ≤ popcount (cw d ^^^ cw d') := by
  rw [← hlinear]
  exact hweight _ (mt BitVec.xor_eq_zero_iff.mp hne)

/-- The data bits stand above the remainder bits, so putting the two together respects sums. -/
theorem shiftLeft_or_setWidth_xor {n m : Nat} (x y : BitVec n) (r q : BitVec m) :
    (x <<< m ^^^ y <<< m) ||| (r ^^^ q).setWidth n = (x <<< m ||| r.setWidth n) ^^^ (y <<< m ||| q.setWidth n) := by
  refine BitVec.eq_of_getLsbD_eq fun i _ => ?_
  rcases Nat.lt_or_ge i m with hlow | hhigh
  · simp [hlow]
  · simp [BitVec.getLsbD_of_ge r i hhigh, BitVec.getLsbD_of_ge q i hhigh]

/-! ## The format code (R150, R152) -/

theorem rem15_xor (p q : BitVec 15) : rem15 (p ^^^ q) = rem15 p ^^^ rem15 q := by
  rw [rem15, foldl_xor (fun p q i => ?_) _ p q, BitVec.setWidth_xor, rem15, rem15]
  rw [BitVec.getLsbD_xor, ite_xor_condition]

theorem fmtCw_xor (d d' : BitVec 5) : fmtCw (d ^^^ d') = fmtCw d ^^^ fmtCw d' := by
  rw [fmtCw, BitVec.setWidth_xor, BitVec.shiftLeft_xor_distrib, rem15_xor, shiftLeft_or_setWidth_xor, fmtCw, fmtCw]

theorem fmtCw_weight : ∀ d : BitVec 5, d ≠ 0 → 7 ≤ popcount (fmtCw d) := by
  decide

theorem fmtCw_distance (d d' : BitVec 5) (hne : d ≠ d') : 7 ≤ popcount (fmtCw d ^^^ fmtCw d') :=
  le_popcount_of_weights fmtCw_xor fmtCw_weight d d' hne

theorem fmtCorrect_eq_some_iff (u : BitVec 15) (d : BitVec 5) :
    fmtCorrect u = some d ↔ popcount (u ^^^ fmtCw d) ≤ 3 := by
  refine (find?_bitVec_eq_some_iff (fun a b ha hb => ?_) d).trans decide_eq_true_iff
  exact eq_of_codewords_near fmtCw_distance (of_decide_eq_true ha) (of_decide_eq_true hb)

/-- Settles O46: weight 7, and correction up to 3. -/
theorem formatCorrectionFindsTheCodeword : Obligations.FormatCorrectionFindsTheCodeword := by
  unfold Obligations.FormatCorrectionFindsTheCodeword
  exact ⟨fmtCw_distance, fmtCorrect_eq_some_iff⟩

/-! ## The version code (R156, R157) -/

theorem rem18_xor (p q : BitVec 18) : rem18 (p ^^^ q) = rem18 p ^^^ rem18 q := by
  rw [rem18, foldl_xor (fun p q i => ?_) _ p q, BitVec.setWidth_xor, rem18, rem18]
  rw [BitVec.getLsbD_xor, ite_xor_condition]

theorem verCw_xor (v v' : BitVec 6) : verCw (v ^^^ v') = verCw v ^^^ verCw v' := by
  rw [verCw, BitVec.setWidth_xor, BitVec.shiftLeft_xor_distrib, rem18_xor, shiftLeft_or_setWidth_xor, verCw, verCw]

theorem verCw_weight : ∀ v : BitVec 6, v ≠ 0 → 8 ≤ popcount (verCw v) := by
  decide

theorem verCw_distance (v v' : BitVec 6) (hne : v ≠ v') : 8 ≤ popcount (verCw v ^^^ verCw v') :=
  le_popcount_of_weights verCw_xor verCw_weight v v' hne

theorem verCorrect_eq_some_iff (u : BitVec 18) (v : BitVec 6) :
    verCorrect u = some v ↔ popcount (u ^^^ verCw v) ≤ 3 := by
  refine (find?_bitVec_eq_some_iff (fun a b ha hb => ?_) v).trans decide_eq_true_iff
  have hdist (a b : BitVec 6) (hne : a ≠ b) : 2 * 3 < popcount (verCw a ^^^ verCw b) :=
    Nat.lt_of_succ_lt (verCw_distance a b hne)
  exact eq_of_codewords_near hdist (of_decide_eq_true ha) (of_decide_eq_true hb)

/-- Settles O47: weight 8, and correction up to 3. -/
theorem versionCorrectionFindsTheCodeword : Obligations.VersionCorrectionFindsTheCodeword := by
  unfold Obligations.VersionCorrectionFindsTheCodeword
  exact ⟨verCw_distance, verCorrect_eq_some_iff⟩

/-! ## `BCHFMT` (R153 to R155) -/

theorem fmtAgree_eq_some_iff (u1 u2 : BitVec 15) (d : BitVec 5) :
    fmtAgree u1 u2 = some d ↔ popcount (u1 ^^^ fmtCw d) ≤ 3 ∧ popcount (u2 ^^^ fmtCw d) ≤ 3 := by
  rw [← fmtCorrect_eq_some_iff, ← fmtCorrect_eq_some_iff, fmtAgree]
  cases fmtCorrect u1 with
  | none => simp
  | some d1 =>
    cases fmtCorrect u2 with
    | none => simp
    | some d2 =>
      have hagree : (d1 = d2 ∧ d1 = d) ↔ (d1 = d ∧ d2 = d) := by
        constructor
        · rintro ⟨rfl, rfl⟩
          exact ⟨rfl, rfl⟩
        · rintro ⟨rfl, rfl⟩
          exact ⟨rfl, rfl⟩
      simpa using hagree

theorem exec_bchfmt_of_some {rd ra rb : Reg} {s : State} {d : BitVec 5}
    (h : fmtAgree (s.fmtWord ra ^^^ s.mask15) (s.fmtWord rb ^^^ s.mask15) = some d) :
    exec (.bchfmt rd ra rb) s = .next (s.setReg rd (fmtResult d)) := by
  rw [exec, execBchfmt, h]

theorem exec_bchfmt_of_none {rd ra rb : Reg} {s : State}
    (h : fmtAgree (s.fmtWord ra ^^^ s.mask15) (s.fmtWord rb ^^^ s.mask15) = none) :
    exec (.bchfmt rd ra rb) s = .next (s.takeError .formatInfoUnrecoverable (encode (.bchfmt rd ra rb)) 0) := by
  rw [exec, execBchfmt, h, fail_eq]

/-- Where the fields of the value stand in the result (R153), and the level ordinal of its indicator (R154). -/
theorem fmtResult_fields : ∀ d : BitVec 5,
    slice (fmtResult d) 4 0 = d.toNat ∧ slice (fmtResult d) 7 5 = 0 ∧ slice (fmtResult d) 31 10 = 0 ∧
      slice (fmtResult d) 9 8 = (match d.toNat / 8 with | 0 => 1 | 1 => 0 | 2 => 3 | _ => 2) := by
  decide

/-- Settles O48: the copies agree on a value exactly when its codeword is near both. -/
theorem bchfmtReturnsTheAgreedValue : Obligations.BchfmtReturnsTheAgreedValue := by
  unfold Obligations.BchfmtReturnsTheAgreedValue
  intro rd ra rb s
  constructor
  · intro d ha hb
    have hagree := (fmtAgree_eq_some_iff _ _ d).mpr ⟨ha, hb⟩
    exact ⟨fmtResult d, exec_bchfmt_of_some hagree, fmtResult_fields d⟩
  · intro hfar
    refine exec_bchfmt_of_none (Option.eq_none_iff_forall_ne_some.mpr fun d hagree => ?_)
    exact hfar d ((fmtAgree_eq_some_iff _ _ d).mp hagree)

/-! ## `BCHVER` (R158) -/

theorem verLegal_eq_some_iff (u : BitVec 18) (v : BitVec 6) :
    verLegal u = some v ↔ 7 ≤ v.toNat ∧ v.toNat ≤ 40 ∧ popcount (u ^^^ verCw v) ≤ 3 := by
  rw [← verCorrect_eq_some_iff, verLegal]
  cases verCorrect u with
  | none => simp
  | some v' =>
    have hlegal : ((7 ≤ v'.toNat ∧ v'.toNat ≤ 40) ∧ v' = v) ↔ (7 ≤ v.toNat ∧ v.toNat ≤ 40 ∧ v' = v) := by
      constructor
      · rintro ⟨⟨h7, h40⟩, rfl⟩
        exact ⟨h7, h40, rfl⟩
      · rintro ⟨h7, h40, rfl⟩
        exact ⟨⟨h7, h40⟩, rfl⟩
    simpa using hlegal

theorem exec_bchver_of_some {rd ra : Reg} {s : State} {v : BitVec 6} (h : verLegal (s.verWord ra) = some v) :
    exec (.bchver rd ra) s = .next (s.setReg rd (v.setWidth 32)) := by
  rw [exec, execBchver, h]

theorem exec_bchver_of_none {rd ra : Reg} {s : State} (h : verLegal (s.verWord ra) = none) :
    exec (.bchver rd ra) s = .next (s.takeError .versionInfoUnrecoverable (encode (.bchver rd ra)) 0) := by
  rw [exec, execBchver, h, fail_eq]

/-- Settles O49: the version is returned exactly when it is in 7..40 and its codeword is near. -/
theorem bchverReturnsTheVersion : Obligations.BchverReturnsTheVersion := by
  unfold Obligations.BchverReturnsTheVersion
  intro rd ra s
  constructor
  · intro v h7 h40 hnear
    exact exec_bchver_of_some ((verLegal_eq_some_iff _ v).mpr ⟨h7, h40, hnear⟩)
  · intro hfar
    refine exec_bchver_of_none (Option.eq_none_iff_forall_ne_some.mpr fun v hlegal => ?_)
    obtain ⟨h7, h40, hnear⟩ := (verLegal_eq_some_iff _ v).mp hlegal
    exact (hfar v h7 h40).not_ge hnear

end Sys2Proof.Proofs

/-!
PROOFS. The interleave unit (spec/43_interleave.md R173 to R179): the stream map is a bijection, and scattering along it
and gathering along it undo each other.
-/

namespace Sys2Proof.Proofs

open Sys2Proof Sys2Proof.Machine

/-! ## The stream map (R175) -/

/-- Every offset in front of block `B` lies in a block before `B`. -/
theorem exists_block_of_lt_offs (e : BlkEntry) {B q : Nat} (h : q < e.offs B) :
    ∃ b < B, ∃ i < e.nlen b, e.offs b + i = q := by
  induction B with
  | zero => exact absurd h (Nat.not_lt_zero q)
  | succ B ih =>
    rcases Nat.lt_or_ge q (e.offs B) with hbefore | hin
    · obtain ⟨b, hb, hi⟩ := ih hbefore
      exact ⟨b, Nat.lt_succ_of_lt hb, hi⟩
    · have hend : q < e.offs B + e.nlen B := h
      exact ⟨B, Nat.lt_succ_self B, q - e.offs B, by omega, by omega⟩

/-- A data codeword is taken in the data round of its index, an ECC word in the ECC round of its own. -/
theorem mem_streamMap_of_lt {e : BlkEntry} {q : Nat} (h : q < e.total) : q ∈ e.streamMap := by
  obtain ⟨b, hb, i, hi, rfl⟩ := exists_block_of_lt_offs e h
  simp only [BlkEntry.streamMap, List.mem_append, List.mem_flatMap, List.mem_map, List.mem_filter, List.mem_range,
    decide_eq_true_eq]
  rcases Nat.lt_or_ge i (e.dlen b) with hdata | hecc
  · exact .inl ⟨i, hdata.trans_le (dlen_le_maxd e hb), b, ⟨hb, hdata⟩, rfl⟩
  · have hlen : i < e.dlen b + e.ecc := hi
    exact .inr ⟨i - e.dlen b, by omega, b, hb, by omega⟩

theorem mem_streamMap_iff (e : BlkEntry) (q : Nat) : q ∈ e.streamMap ↔ q < e.total :=
  ⟨mem_streamMap_lt, mem_streamMap_of_lt⟩

theorem mem_streamMap_iff_lt_length (e : BlkEntry) (q : Nat) : q ∈ e.streamMap ↔ q < e.streamMap.length := by
  rw [mem_streamMap_iff, streamMap_length]

/-- A list of `T` numbers that has each of the `T` numbers below `T` has none twice. -/
theorem streamMap_nodup (e : BlkEntry) : e.streamMap.Nodup := by
  have hsub : (List.range e.total).Subperm e.streamMap :=
    List.subperm_of_subset List.nodup_range fun q hq => mem_streamMap_of_lt (List.mem_range.mp hq)
  have hperm : (List.range e.total).Perm e.streamMap :=
    hsub.perm_of_length_le (by rw [streamMap_length, List.length_range])
  exact hperm.nodup List.nodup_range

/-- Settles O52: the map has every offset, and as many entries as there are offsets. -/
theorem streamMapIsABijection : Obligations.StreamMapIsABijection := by
  unfold Obligations.StreamMapIsABijection
  exact fun e => ⟨streamMap_length e, streamMap_nodup e, mem_streamMap_iff e⟩

/-! ## Scattering and gathering along a map -/

/-- The bytes from `src` upward stored at the offsets of `m` from `dst`, the effect of `DEINTL` (R177). -/
def scattered (s : State) (m : List Nat) (src dst : Nat) : State :=
  s.setCells (List.zip (m.map (dst + ·)) (s.bytesAt src m.length))

/-- The bytes at the offsets of `m` from `src` stored from `dst` upward, the effect of `INTL` (R178). -/
def gathered (s : State) (m : List Nat) (src dst : Nat) : State :=
  s.setBytes dst (m.map fun q => s.byteAt (src + q))

section
variable {s : State} {m : List Nat} {src dst : Nat}

theorem scattered_byteAt (hm : m.Nodup) {p : Nat} (hp : p < m.length) :
    (scattered s m src dst).byteAt (dst + m.getD p 0) = s.byteAt (src + p) := by
  have hlen : (m.map (dst + ·)).length = (s.bytesAt src m.length).length := by
    rw [List.length_map, bytesAt_length]
  have haddr : ((List.zip (m.map (dst + ·)) (s.bytesAt src m.length)).map (·.1)).Nodup := by
    rw [List.map_fst_zip hlen.le]
    exact hm.map (add_right_injective dst)
  have hcell : (dst + m.getD p 0, s.byteAt (src + p)) ∈ List.zip (m.map (dst + ·)) (s.bytesAt src m.length) := by
    refine List.mem_iff_getElem.mpr ⟨p, by simpa using hp, ?_⟩
    rw [List.getElem_zip, List.getElem_map, ← List.getD_eq_getElem m 0 hp, ← List.getD_eq_getElem _ 0,
      bytesAt_getD s src hp]
  exact byteAt_setCells_inside s _ haddr _ hcell

theorem scattered_byteAt_outside (hm : ∀ q ∈ m, q < m.length) {a : Nat} (ha : a < dst ∨ dst + m.length ≤ a) :
    (scattered s m src dst).byteAt a = s.byteAt a := by
  refine byteAt_setCells_outside s _ a fun c hc => ?_
  obtain ⟨q, hq, hqc⟩ := List.mem_map.mp (List.of_mem_zip hc).1
  have hlt := hm q hq
  omega

theorem gathered_byteAt {p : Nat} (hp : p < m.length) :
    (gathered s m src dst).byteAt (dst + p) = s.byteAt (src + m.getD p 0) := by
  have hin : dst ≤ dst + p ∧ dst + p < dst + (m.map fun q => s.byteAt (src + q)).length := by
    rw [List.length_map]
    omega
  rw [gathered, byteAt_setBytes, dif_pos hin, List.getElem_map, ← List.getD_eq_getElem _ 0, Nat.add_sub_cancel_left]

theorem gathered_byteAt_outside {a : Nat} (ha : a < dst ∨ dst + m.length ≤ a) :
    (gathered s m src dst).byteAt a = s.byteAt a := by
  rw [gathered, byteAt_setBytes, dif_neg]
  rw [List.length_map]
  omega

end

/-- Gathering undoes scattering where the map has no offset twice. -/
theorem gathered_scattered_bytesAt (s : State) {m : List Nat} (hm : m.Nodup) (x y z : Nat) :
    (gathered (scattered s m x y) m y z).bytesAt z m.length = s.bytesAt x m.length := by
  refine (bytesAt_eq_iff (bytesAt_length _ _ _)).mpr fun p hp => ?_
  rw [bytesAt_getD s x hp, gathered_byteAt hp, scattered_byteAt hm hp]

/-- Scattering undoes gathering where the map also has every offset. -/
theorem scattered_gathered_bytesAt (s : State) {m : List Nat} (hm : m.Nodup) (hall : ∀ q < m.length, q ∈ m)
    (x y z : Nat) : (scattered (gathered s m x y) m y z).bytesAt z m.length = s.bytesAt x m.length := by
  refine (bytesAt_eq_iff (bytesAt_length _ _ _)).mpr fun q hq => ?_
  obtain ⟨p, hp, hpq⟩ := List.mem_iff_getElem.mp (hall q hq)
  obtain rfl : m.getD p 0 = q := (List.getD_eq_getElem m 0 hp).trans hpq
  rw [bytesAt_getD s x hq, scattered_byteAt hm hp, gathered_byteAt hp]

/-! ## The commands (R177, R178) -/

section
variable {s : State} {rl ra rb : Reg} {ver : Nat} {lvl : EccLevel}

/-- Where every check passes, the answer of `DEINTL` or `INTL` is what stands behind the checks. -/
theorem interleave_checks_pass (h : s.InterleaveRuns rl ra rb ver lvl) (i : Instr) (rest : Result) :
    interleaveChecked i rl ra rb ver lvl s rest = rest := by
  obtain ⟨hlo, hhi, hlen, hsrc, hdst, hdisj⟩ := h
  have hver : ¬ (!verInRange ver) = true := by
    rw [not_verInRange_iff]
    omega
  have hsource : ¬ (!s.inBounds (s.num ra) (s.num rl)) = true := by
    rwa [not_inBounds_iff, not_lt]
  have hdest : ¬ (!s.inBounds (s.num rb) (s.num rl)) = true := by
    rwa [not_inBounds_iff, not_lt]
  have hoverlap : ¬ overlap (s.num ra) (s.num rl) (s.num rb) (s.num rl) = true :=
    ne_true_of_eq_false ((overlap_eq_false_iff _ _ _ _).mpr hdisj)
  rw [interleaveChecked, if_neg hver, if_neg (not_not.mpr hlen), if_neg hsource, if_neg hdest, if_neg hoverlap]

/-- The length operand is the number of entries of the map (R177). -/
theorem num_eq_streamMap_length (h : s.InterleaveRuns rl ra rb ver lvl) :
    s.num rl = (s.blkEntry ver lvl).streamMap.length := by
  obtain ⟨-, -, hlen, -⟩ := h
  rw [hlen, streamMap_length]

/-- The checks do not read `MEM`. -/
theorem interleaveRuns_of_mem (h : s.InterleaveRuns rl ra rb ver lvl) (m : Memory) :
    { s with mem := m }.InterleaveRuns rl ra rb ver lvl := h

theorem exec_deintl (h : s.InterleaveRuns rl ra rb ver lvl) :
    exec (.deintl rl ra rb ver lvl) s =
      .next (scattered s (s.blkEntry ver lvl).streamMap (s.num ra) (s.num rb)) := by
  rw [scattered, ← num_eq_streamMap_length h]
  exact interleave_checks_pass h _ _

theorem exec_intl (h : s.InterleaveRuns rl ra rb ver lvl) :
    exec (.intl rl ra rb ver lvl) s =
      .next (gathered s (s.blkEntry ver lvl).streamMap (s.num ra) (s.num rb)) :=
  interleave_checks_pass h _ _

end

/-- Settles O53: the offsets of the map are different and lie in the block area. -/
theorem deintlScattersTheStream : Obligations.DeintlScattersTheStream := by
  unfold Obligations.DeintlScattersTheStream
  intro rl ra rb ver lvl s h
  have hrange := mem_streamMap_iff_lt_length (s.blkEntry ver lvl)
  rw [num_eq_streamMap_length h]
  exact ⟨_, exec_deintl h, rfl, fun _ => scattered_byteAt (streamMap_nodup _),
    fun _ => scattered_byteAt_outside fun q => (hrange q).mp⟩

/-- Settles O54: the stream has one byte for each entry of the map. -/
theorem intlGathersTheStream : Obligations.IntlGathersTheStream := by
  unfold Obligations.IntlGathersTheStream
  intro rl ra rb ver lvl s h
  rw [num_eq_streamMap_length h]
  exact ⟨_, exec_intl h, rfl, fun _ => gathered_byteAt, fun _ => gathered_byteAt_outside⟩

/-- Settles O55: both commands follow the same map, which is a bijection. That the first and the last buffer are disjoint
is not needed: the first is read before the last is written. -/
theorem interleavingIsInvertedByDeinterleaving : Obligations.InterleavingIsInvertedByDeinterleaving := by
  unfold Obligations.InterleavingIsInvertedByDeinterleaving
  intro rl rx ry rz ver lvl s hxy hyz _
  have hrange := mem_streamMap_iff_lt_length (s.blkEntry ver lvl)
  rw [num_eq_streamMap_length hxy]
  exact ⟨⟨_, _, exec_deintl hxy, exec_intl (interleaveRuns_of_mem hyz _),
      gathered_scattered_bytesAt s (streamMap_nodup _) _ _ _⟩,
    ⟨_, _, exec_intl hxy, exec_deintl (interleaveRuns_of_mem hyz _),
      scattered_gathered_bytesAt s (streamMap_nodup _) (fun q => (hrange q).mpr) _ _ _⟩⟩

end Sys2Proof.Proofs

/-!
PROOFS. The threshold unit (spec/44_threshold.md R190 to R201): the statistics of a list of gray values, the window of a
tile, and the bitmap that `THRESH` writes.
-/

namespace Sys2Proof.Proofs

open Sys2Proof Sys2Proof.Machine

/-! ## The statistics of a window (R197) -/

/-- One more value counted: those equal to the bound join those below it. -/
theorem countP_lt_succ (px : List Nat) (n : Nat) :
    px.countP (fun v => v < n + 1) = px.countP (fun v => v < n) + px.count n := by
  induction px with
  | nil => rfl
  | cons a px ih =>
    simp only [List.countP_cons, List.count_cons, ih, decide_eq_true_eq, beq_iff_eq]
    split_ifs <;> omega

/-- The histogram added up from 0 counts the values below a bound. -/
theorem sum_hist_range (px : List Nat) (n : Nat) :
    ((List.range n).map (hist px)).sum = px.countP (fun v => v < n) := by
  induction n with
  | zero => simp
  | succ n ih => rw [List.sum_range_succ, ih, countP_lt_succ, hist]

theorem cumulative_eq_countP (px : List Nat) (v : Nat) : cumulative px v = px.countP (fun u => u ≤ v) := by
  simp only [cumulative, sum_hist_range, Nat.lt_succ_iff]

/-- The values weighted by their counts add up to the sum of the list. -/
theorem sum_mul_hist {px : List Nat} (h : ∀ v ∈ px, v < 256) :
    ((List.range 256).map (fun v => v * hist px v)).sum = px.sum := by
  have hsub : px.toFinset ⊆ Finset.range 256 := fun v hv =>
    Finset.mem_range.mpr (h v (List.mem_toFinset.mp hv))
  calc ((List.range 256).map (fun v => v * hist px v)).sum
      = ∑ v ∈ Finset.range 256, v * px.count v := rfl
    _ = ∑ v ∈ Finset.range 256, px.count v • v :=
        Finset.sum_congr rfl fun v _ => by rw [smul_eq_mul, Nat.mul_comm]
    _ = px.sum := (Finset.sum_list_count_of_subset px _ hsub).symm

/-- The median is the smallest value that at least half of the list does not exceed: all of the list is at most 255, so
there is one. -/
theorem medianOf_least {px : List Nat} (h : ∀ v ∈ px, v < 256) :
    px.length ≤ 2 * cumulative px (medianOf px) ∧ ∀ u < medianOf px, 2 * cumulative px u < px.length := by
  have hall : px.length ≤ 2 * cumulative px 255 := by
    have htop : px.countP (fun v => v ≤ 255) = px.length :=
      List.countP_eq_length.mpr fun v hv => decide_eq_true (Nat.le_of_lt_succ (h v hv))
    rw [cumulative_eq_countP, htop]
    omega
  obtain ⟨m, hfind⟩ : ∃ m, (List.range 256).find? (fun v => decide (px.length ≤ 2 * cumulative px v)) = some m :=
    Option.isSome_iff_exists.mp (List.find?_isSome.mpr ⟨255, by simp, by simpa using hall⟩)
  have hm : medianOf px = m := by rw [medianOf, hfind, Option.getD_some]
  obtain ⟨hhalf, -, hbelow⟩ := List.find?_range_eq_some.mp hfind
  rw [hm]
  exact ⟨by simpa using hhalf, fun u hu => by simpa using hbelow u hu⟩

/-- What lies below the least such value counts less than half. -/
theorem countP_lt_medianOf {px : List Nat} (hne : px ≠ []) (h : ∀ v ∈ px, v < 256) :
    2 * px.countP (fun v => v < medianOf px) < px.length := by
  obtain ⟨-, hbelow⟩ := medianOf_least h
  cases hm : medianOf px with
  | zero => simpa using List.length_pos_iff.mpr hne
  | succ u =>
    have hu := hbelow u (by omega)
    simpa only [cumulative_eq_countP, Nat.lt_succ_iff] using hu

/-- The count reaches half at the median itself, so the list has it. -/
theorem medianOf_mem {px : List Nat} (hne : px ≠ []) (h : ∀ v ∈ px, v < 256) : medianOf px ∈ px := by
  have hhalf := (medianOf_least h).1
  have hbelow := countP_lt_medianOf hne h
  have hstep := countP_lt_succ px (medianOf px)
  simp only [cumulative_eq_countP, ← Nat.lt_add_one_iff] at hhalf
  exact List.count_pos_iff.mp (by omega)

/-- Settles O59: the mean divides the sum by the count, and the median is where the cumulative count reaches half. -/
theorem windowStatisticsAreMeanAndLowerMedian : Obligations.WindowStatisticsAreMeanAndLowerMedian := by
  unfold Obligations.WindowStatisticsAreMeanAndLowerMedian
  intro px hne h
  refine ⟨by rw [meanOf, sum_mul_hist h], medianOf_mem hne h, ?_, countP_lt_medianOf hne h⟩
  rw [← cumulative_eq_countP]
  exact (medianOf_least h).1

/-! ## The window of a tile (R196) -/

/-- Both sides are increasing and have the numbers of `0 .. n-1` between the two bounds. -/
theorem drop_take_range (n a b : Nat) :
    ((List.range n).take b).drop a = (List.range n).filter (fun i => decide (a ≤ i) && decide (i < b)) := by
  refine List.Pairwise.eq_of_mem_iff List.pairwise_lt_range.take.drop (List.pairwise_lt_range.filter _) fun i => ?_
  simp only [List.take_range, List.mem_drop_iff_getElem, List.length_range, List.getElem_range, List.mem_filter,
    List.mem_range, Bool.and_eq_true, decide_eq_true_eq]
  constructor
  · rintro ⟨k, hk, rfl⟩
    omega
  · rintro ⟨hn, ha, hb⟩
    exact ⟨i - a, by omega, by omega⟩

/-- A tile is at most `r` away exactly when the coordinate lies between the bounds of R196's second form. -/
theorem tile_near_iff {T : Nat} (hT : 0 < T) (i t r : Nat) :
    ((i / T : Nat) - (t : Int)).natAbs ≤ r ↔ (t - r) * T ≤ i ∧ i < (t + r + 1) * T := by
  rw [← Nat.le_div_iff_mul_le hT, ← Nat.div_lt_iff_lt_mul hT]
  generalize i / T = q
  omega

/-- A list cut by a condition and spread out: the elements that fail it contribute nothing. -/
theorem flatMap_filter {α β : Type} (l : List α) (p : α → Bool) (f : α → List β) :
    (l.filter p).flatMap f = l.flatMap (fun a => if p a then f a else []) := by
  induction l with
  | nil => rfl
  | cons a l ih => by_cases h : p a <;> simp [h, ih]

/-- The two forms of R196 give the same window. -/
theorem window_grayRows (s : State) (src tx ty : Nat) :
    window (s.grayRows src s.width s.height s.pixFmt) s.tlog s.wrad tx ty = s.windowAt src tx ty := by
  have hT : 0 < 2 ^ s.tlog := Nat.two_pow_pos _
  simp only [window, State.grayRows, State.windowAt, ← List.map_take, ← List.map_drop, drop_take_range,
    List.flatMap_map, flatMap_filter, tile_near_iff hT, Bool.decide_and]
  refine List.flatMap_congr fun y _ => ?_
  split_ifs with hy
  · simp only [hy, Bool.and_true]
    rfl
  · simp only [hy, Bool.and_false, List.filter_false, List.map_nil]

/-! ## The bitmap (R195, R198, R199) -/

/-- The polarity, with the two values of a byte in the order of the claim (R199). -/
theorem bitmapByte_eq (g base : Nat) (off : Int) (inv : Bool) :
    bitmapByte g base off inv = if decide ((g : Int) < base + off) = inv then 0x00 else 0x01 := by
  rw [bitmapByte]
  cases decide ((g : Int) < base + off) <;> cases inv <;> rfl

/-- The other polarity gives the other of the two values (R199). -/
theorem bitmapByte_inverted (g base : Nat) (off : Int) :
    bitmapByte g base off true = bitmapByte g base off false ^^^ 1 := by
  simp only [bitmapByte]
  cases decide ((g : Int) < base + off) <;> rfl

/-- A dark pixel of normal polarity reads 1 (R198, R199). -/
theorem bitmapByte_eq_one_iff (g base : Nat) (off : Int) :
    bitmapByte g base off false = 1 ↔ (g : Int) < base + off := by
  rw [bitmapByte_eq]
  by_cases h : (g : Int) < base + off <;> simp [h]

/-- An entry of a grid of `h` rows of `w` values. -/
theorem entry_grid (f : Nat → Nat → Nat) {w h x y : Nat} (hx : x < w) (hy : y < h) :
    entry ((List.range h).map fun y => (List.range w).map fun x => f x y) x y = f x y := by
  simp [entry, hx, hy]

/-- The tile of a pixel is one of the tiles of the image (R195). -/
theorem tile_lt {x w T : Nat} (hx : x < w) : x / T < (w - 1) / T + 1 :=
  Nat.lt_succ_of_le (Nat.div_le_div_right (Nat.le_sub_one_of_lt hx))

/-- Rows of equal length laid one behind the other. -/
theorem flatMap_rows {α : Type} (f : Nat → Nat → α) (w h : Nat) :
    (List.range h).flatMap (fun y => (List.range w).map (fun x => f x y)) =
      (List.range (w * h)).map (fun j => f (j % w) (j / w)) := by
  induction h with
  | zero => rfl
  | succ h ih =>
    rw [List.range_succ, List.flatMap_append, ih, List.flatMap_singleton, Nat.mul_succ, List.range_add,
      List.map_append, List.map_map]
    congr 1
    refine List.map_congr_left fun x hx => ?_
    have hx := List.mem_range.mp hx
    have hw : 0 < w := by omega
    simp [Nat.mod_eq_of_lt hx, Nat.mul_add_div hw, Nat.div_eq_of_lt hx]

theorem tileBase_eq_baseAt (s : State) (src x y : Nat) :
    tileBase (s.grayRows src s.width s.height s.pixFmt) s.tlog s.wrad s.median (x / 2 ^ s.tlog) (y / 2 ^ s.tlog) =
      s.baseAt src x y := by
  rw [tileBase, window_grayRows, State.baseAt]

/-- The byte that `THRESH` writes for pixel `(x, y)` (R198, R199). -/
def pixelByte (s : State) (src : Nat) (off : Int) (inv : Bool) (x y : Nat) : Byte :=
  bitmapByte (s.grayAt src x y) (s.baseAt src x y) off inv

theorem bitmapOf_eq_map (s : State) (src : Nat) (off : Int) (inv : Bool) :
    s.bitmapOf src off inv = (List.range (s.width * s.height)).map
      (fun j => pixelByte s src off inv (j % s.width) (j / s.width)) := by
  simp only [State.bitmapOf, bitmap]
  rw [← flatMap_rows]
  refine List.flatMap_congr fun y hy => List.map_congr_left fun x hx => ?_
  have hy := List.mem_range.mp hy
  have hx := List.mem_range.mp hx
  rw [tileBases, entry_grid _ (tile_lt hx) (tile_lt hy), tileBase_eq_baseAt, State.grayRows, entry_grid _ hx hy]
  rfl

/-- The bytes of a bitmap written at `dst`: one for each pixel, row by row. -/
theorem setBytes_bitmapOf_byteAt (s : State) (src dst : Nat) (off : Int) (inv : Bool) {j : Nat}
    (hj : j < s.width * s.height) :
    (s.setBytes dst (s.bitmapOf src off inv)).byteAt (dst + j) =
      pixelByte s src off inv (j % s.width) (j / s.width) := by
  simp only [bitmapOf_eq_map, byteAt_setBytes, List.length_map, List.length_range, Nat.le_add_right,
    Nat.add_lt_add_iff_left, hj, and_self, dite_true, List.getElem_map, List.getElem_range, Nat.add_sub_cancel_left]

theorem setBytes_bitmapOf_byteAt_outside (s : State) (src dst : Nat) (off : Int) (inv : Bool) {a : Nat}
    (ha : a < dst ∨ dst + s.width * s.height ≤ a) :
    (s.setBytes dst (s.bitmapOf src off inv)).byteAt a = s.byteAt a := by
  rw [byteAt_setBytes, dif_neg]
  rw [State.bitmapOf, bitmap_length]
  omega

/-! ## The command (R191, R193) -/

/-- Where every check passes, `THRESH` writes the bitmap. -/
theorem exec_thresh {s : State} {ra rb : Reg} (h : s.ThreshRuns ra rb) (off : Int) (inv : Bool) :
    exec (.thresh ra rb off inv) s = .next (s.setBytes (s.num rb) (s.bitmapOf (s.num ra) off inv)) := by
  obtain ⟨hfmt, hw, hh, hsrc, hdst, hdisj⟩ := h
  have hform : ¬ (s.pixFmt = 3 ∨ s.width = 0 ∨ s.height = 0) := by omega
  have hsize : ¬ (s.width < 21 ∨ s.height < 21) := by omega
  have himage : ¬ (!s.inBounds (s.num ra) (s.width * s.height * bytesPerPixel s.pixFmt)) = true := by
    rwa [not_inBounds_iff, not_lt]
  have hbitmap : ¬ (!s.inBounds (s.num rb) (s.width * s.height)) = true := by
    rwa [not_inBounds_iff, not_lt]
  have hoverlap : ¬ overlap (s.num ra) (s.width * s.height * bytesPerPixel s.pixFmt) (s.num rb)
      (s.width * s.height) = true := ne_true_of_eq_false ((overlap_eq_false_iff _ _ _ _).mpr hdisj)
  calc exec (.thresh ra rb off inv) s = execThresh ra rb off inv s := rfl
    _ = .next (s.setBytes (s.num rb) (s.bitmapOf (s.num ra) off inv)) := by
      rw [execThresh, if_neg hform, if_neg hsize, if_neg himage, if_neg hbitmap, if_neg hoverlap]

/-- Settles O57: pixel `(x, y)` is the one of byte `y * W + x`. -/
theorem threshWritesTheBitmap : Obligations.ThreshWritesTheBitmap := by
  unfold Obligations.ThreshWritesTheBitmap
  intro ra rb off inv s h
  refine ⟨_, exec_thresh h off inv, rfl, fun x y hx hy => ?_,
    fun _ => setBytes_bitmapOf_byteAt_outside s _ _ off inv⟩
  have hj : y * s.width + x < s.width * s.height :=
    calc y * s.width + x < y * s.width + s.width := Nat.add_lt_add_left hx _
      _ = s.width * (y + 1) := by ring
      _ ≤ s.width * s.height := Nat.mul_le_mul_left _ hy
  have hcol : (y * s.width + x) % s.width = x := Nat.mul_add_mod_of_lt hx
  have hrow : (y * s.width + x) / s.width = y := by
    rw [Nat.mul_comm, Nat.mul_add_div (Nat.zero_lt_of_lt hx), Nat.div_eq_of_lt hx, Nat.add_zero]
  rw [setBytes_bitmapOf_byteAt s _ _ off inv hj, hcol, hrow, pixelByte, bitmapByte_eq]

/-- Settles O58: gray value and base of a pixel depend neither on the polarity nor on the offset. -/
theorem bitmapNegatesWithPolarityAndGrowsWithOffset : Obligations.BitmapNegatesWithPolarityAndGrowsWithOffset := by
  unfold Obligations.BitmapNegatesWithPolarityAndGrowsWithOffset
  intro ra rb off off' s h hoff
  refine ⟨_, _, _, exec_thresh h off false, exec_thresh h off true, exec_thresh h off' false, fun j hj => ?_⟩
  simp only [setBytes_bitmapOf_byteAt s _ _ _ _ hj, pixelByte, bitmapByte_eq_one_iff]
  exact ⟨bitmapByte_inverted _ _ off, fun hdark => hdark.trans_le (Int.add_le_add_left hoff _)⟩

end Sys2Proof.Proofs

/-!
PROOFS. The host port and the error entry (spec/60_exceptions.md): what each transaction does in each `STATE`, what is
dropped or ignored, the acknowledge, and that a command completes or changes nothing but the error record.
-/

namespace Sys2Proof.Proofs

open Sys2Proof Sys2Proof.Machine

/-! ## The host's transactions (R218 to R221, R233 to R236) -/

section
variable {s : State} {a : Nat}

theorem issue_of_decode {w : Word} {i : Instr} (hr : s.run = .ready) (hd : decode w = .ok i) :
    s.issue w = exec i s := by
  rw [State.issue, if_pos hr, hd]

theorem issue_of_not_ready (hr : s.run ≠ .ready) (w : Word) : s.issue w = .next s := if_neg hr

theorem hostRegWrite_of_fatal (hr : s.run = .fatal) (i : Reg) (v : Nat) : s.hostRegWrite i v = s := if_pos hr

theorem hostRegWrite_of_not_fatal (hr : s.run ≠ .fatal) (i : Reg) (v : Nat) :
    s.hostRegWrite i v = s.setReg i (BitVec.ofNat 32 v) := if_neg hr

theorem hostOutOfBounds_of_fatal (hr : s.run = .fatal) (a : Nat) : s.hostOutOfBounds a = s := if_pos hr

theorem hostOutOfBounds_of_not_fatal (hr : s.run ≠ .fatal) (a : Nat) :
    s.hostOutOfBounds a = s.takeError .indexOutOfBounds 0 (BitVec.ofNat 32 a) := if_neg hr

theorem hostMemRead_inside (ha : a < s.memBytes) : s.hostMemRead a = { s with reply := .byte (s.byteAt a) } :=
  if_pos ha

theorem hostMemRead_outside (ha : s.memBytes ≤ a) :
    s.hostMemRead a = { s.hostOutOfBounds a with reply := .byte 0 } := if_neg ha.not_gt

theorem hostMemRead_of_fatal (hr : s.run = .fatal) (a : Nat) :
    s.hostMemRead a = { s with reply := .byte (if a < s.memBytes then s.byteAt a else 0) } := by
  split
  next ha => exact hostMemRead_inside ha
  next ha => rw [hostMemRead_outside (Nat.le_of_not_lt ha), hostOutOfBounds_of_fatal hr]

theorem hostMemWrite_inside (ha : a < s.memBytes) (hr : s.run ≠ .fatal) (v : Nat) :
    s.hostMemWrite a v = s.setBytes a [BitVec.ofNat 8 v] := by
  rw [State.hostMemWrite, if_pos ha, if_neg hr]

theorem hostMemWrite_outside (ha : s.memBytes ≤ a) (v : Nat) : s.hostMemWrite a v = s.hostOutOfBounds a :=
  if_neg ha.not_gt

theorem hostMemWrite_of_fatal (hr : s.run = .fatal) (a v : Nat) : s.hostMemWrite a v = s := by
  rw [State.hostMemWrite, if_pos hr, hostOutOfBounds_of_fatal hr, ite_self]

theorem hostCsrWrite_of_fatal (hr : s.run = .fatal) (a v : Nat) : s.hostCsrWrite a v = s := if_pos hr

/-- A host write to `ERR` acknowledges in `FAILED` and does nothing in `READY` and `FATAL` (R219, R221). -/
theorem hostCsrWrite_err (s : State) (v : Nat) :
    s.hostCsrWrite 1 v = if s.run = .failed then s.acknowledge else s := by
  by_cases hr : s.run = .fatal
  · rw [hostCsrWrite_of_fatal hr, if_neg (by simp [hr])]
  · exact if_neg hr

end

/-- A byte of memory after one byte is written. -/
theorem byteAt_setBytes_singleton (s : State) (a : Nat) (v : Byte) (b : Nat) :
    (s.setBytes a [v]).byteAt b = if b = a then v else s.byteAt b := by
  rw [byteAt_setBytes]
  by_cases h : b = a
  · subst h
    simp
  · rw [if_neg h, dif_neg]
    simp only [List.length_singleton]
    omega

/-! ## `READY`, `FAILED` and `FATAL` -/

/-- Settles O6: `s.taken rest` is in `READY`, where the decoded word is executed. -/
theorem stepRunsTheIssuedCommand : Obligations.StepRunsTheIssuedCommand := by
  unfold Obligations.StepRunsTheIssuedCommand
  intro s w rest i hp hr hd
  calc step s = (s.taken rest).issue w := step_transact hp
    _ = exec i (s.taken rest) := issue_of_decode hr hd

/-- Settles O9: `step_idle`, the rule of a step with an empty port. -/
theorem idleBlockKeepsAllState : Obligations.IdleBlockKeepsAllState := by
  unfold Obligations.IdleBlockKeepsAllState
  exact fun _ hp => step_idle hp

theorem step_issue_of_not_ready {s : State} {w : Word} {rest : List HostTx} (hp : s.port = .issue w :: rest)
    (hr : s.run ≠ .ready) : step s = .next (s.taken rest) :=
  (step_transact hp).trans (issue_of_not_ready (s := s.taken rest) hr w)

theorem run_succ_of_step {M : Host.Core} {s t : M.State} (h : M.step s = .next t) (k : Nat) :
    M.run (k + 1) s = M.run k t := by
  rw [Host.Core.run, h]

/-- Words at the head of the port are dropped one after another (R218). -/
theorem run_drops_issued {s : State} (hr : s.run ≠ .ready) (ws : List Word) (rest : List HostTx) :
    core.run ws.length (s.taken (ws.map .issue ++ rest)) = .next (s.taken rest) := by
  induction ws with
  | nil => rfl
  | cons w ws ih =>
    have hdrop : core.step (s.taken ((w :: ws).map .issue ++ rest)) = .next (s.taken (ws.map .issue ++ rest)) :=
      step_issue_of_not_ready (s := s.taken _) rfl hr
    exact (run_succ_of_step hdrop _).trans ih

/-- Settles O8: the first word is dropped from `s` itself, the others by induction; a batch is not empty, so the reply
is cleared. -/
theorem issuedWordsAreDroppedUnlessReady : Obligations.IssuedWordsAreDroppedUnlessReady := by
  unfold Obligations.IssuedWordsAreDroppedUnlessReady
  intro s ws rest hr hne hp
  cases ws with
  | nil => exact absurd rfl hne
  | cons w ws =>
    have hdrop : core.step s = .next (s.taken (ws.map .issue ++ rest)) := step_issue_of_not_ready hp hr
    exact (run_succ_of_step hdrop _).trans (run_drops_issued hr ws rest)

/-- Settles O11: the write to `ERR` acknowledges exactly in `FAILED`. -/
theorem acknowledgeReturnsToReady : Obligations.AcknowledgeReturnsToReady := by
  unfold Obligations.AcknowledgeReturnsToReady
  intro s v rest hp
  have hstep : step s = .next (if s.run = .failed then (s.taken rest).acknowledge else s.taken rest) :=
    (step_transact hp).trans (congrArg _ (hostCsrWrite_err (s.taken rest) v))
  refine ⟨fun hr => ?_, fun hr => ?_⟩
  · rw [hstep, if_pos hr]
    rfl
  · rw [hstep, if_neg hr]

/-- Settles O12: each of the eight transactions by its rule for `FATAL`. -/
theorem fatalStateIsLeftOnlyByReset : Obligations.FatalStateIsLeftOnlyByReset := by
  unfold Obligations.FatalStateIsLeftOnlyByReset
  intro s tx rest hr hp
  have hstep := step_transact hp
  have hfatal : (s.taken rest).run = .fatal := hr
  cases tx with
  | reset => exact ⟨_, hstep, rfl⟩
  | issue w => exact step_issue_of_not_ready hp (by simp [hr])
  | regRead i => exact hstep
  | regWrite i v => exact hstep.trans (congrArg _ (hostRegWrite_of_fatal hfatal i v))
  | memRead a => exact hstep.trans (congrArg _ (hostMemRead_of_fatal hfatal a))
  | memWrite a v => exact hstep.trans (congrArg _ (hostMemWrite_of_fatal hfatal a v))
  | csrRead a => exact hstep
  | csrWrite a v => exact hstep.trans (congrArg _ (hostCsrWrite_of_fatal hfatal a v))

/-! ## Registers and memory through the port -/

/-- Settles O15: a read answers the register, a write outside `FATAL` is `setReg`. -/
theorem registerTransactionsReadAndWrite : Obligations.RegisterTransactionsReadAndWrite := by
  unfold Obligations.RegisterTransactionsReadAndWrite
  intro s i v rest
  refine ⟨fun hp => step_transact hp, fun hp hr => ⟨(s.taken rest).setReg i (BitVec.ofNat 32 v), ?_, rfl, fun j => ?_⟩⟩
  · exact (step_transact hp).trans (congrArg _ (hostRegWrite_of_not_fatal (s := s.taken rest) hr i v))
  · exact reg_setReg (s.taken rest) i j _

/-- Settles O16: inside `MEM` the byte, outside it the shared rule for a host access out of bounds. -/
theorem memoryTransactionsReadAndWrite : Obligations.MemoryTransactionsReadAndWrite := by
  unfold Obligations.MemoryTransactionsReadAndWrite
  intro s a v rest
  have hread (hp : s.port = .memRead a :: rest) : step s = .next ((s.taken rest).hostMemRead a) := step_transact hp
  have hwrite (hp : s.port = .memWrite a v :: rest) : step s = .next ((s.taken rest).hostMemWrite a v) :=
    step_transact hp
  refine ⟨fun hp ha => ?readInside, fun hp ha hr => ?writeInside, fun hp hr => ?writeFatal,
    fun hp ha hr => ?readOutside, fun hp ha hr => ?writeOutside, fun hp ha hr => ?readOutsideFatal⟩
  case readInside =>
    rw [hread hp, hostMemRead_inside (s := s.taken rest) ha]
    rfl
  case writeInside =>
    refine ⟨(s.taken rest).setBytes a [BitVec.ofNat 8 v], ?_, rfl, byteAt_setBytes_singleton (s.taken rest) a _⟩
    rw [hwrite hp, hostMemWrite_inside (s := s.taken rest) ha hr]
  case writeFatal => rw [hwrite hp, hostMemWrite_of_fatal (s := s.taken rest) hr]
  case readOutside =>
    rw [hread hp, hostMemRead_outside (s := s.taken rest) ha, hostOutOfBounds_of_not_fatal (s := s.taken rest) hr]
    rfl
  case writeOutside =>
    rw [hwrite hp, hostMemWrite_outside (s := s.taken rest) ha, hostOutOfBounds_of_not_fatal (s := s.taken rest) hr]
    rfl
  case readOutsideFatal =>
    rw [hread hp, hostMemRead_outside (s := s.taken rest) ha, hostOutOfBounds_of_fatal (s := s.taken rest) hr]

/-! ## Commands are all-or-nothing (R216) -/

/-- Settles O26: every outcome of a command but the error entry writes only registers, memory and tables. -/
theorem commandsAreAllOrNothing : Obligations.CommandsAreAllOrNothing := by
  unfold Obligations.CommandsAreAllOrNothing
  intro i s t _ h
  cases exec_outcome h with
  | idle | tables | register | bytes | cells | cellsRegister => exact .inl rfl
  | error hk aux haux => exact .inr ⟨_, aux, hk, haux, target_ne_ready _, rfl⟩

end Sys2Proof.Proofs

/-!
PROOFS. Reset and hazards (spec/70_reset_and_hazards.md): that every step answers a next state, and what `Reset` leaves.
-/

namespace Sys2Proof.Proofs

open Sys2Proof Sys2Proof.Machine

/-! ## Every hazard has a defined outcome (R255, R257) -/

/-- An issued word ends in a next state: its command runs (`exec_answers`), it is no command, or it is dropped. -/
theorem issue_answers (s : State) (w : Word) : ∃ t, s.issue w = .next t := by
  unfold State.issue
  split
  next =>
    split
    next i hd =>
      obtain ⟨t, ht, -⟩ := exec_answers i s
      exact ⟨t, ht⟩
    next => exact ⟨_, rfl⟩
  next => exact ⟨_, rfl⟩

/-- Only `Issue` runs a command; each of the other seven transactions answers the state its rule gives. -/
theorem transact_answers (s : State) (tx : HostTx) : ∃ t, s.transact tx = .next t := by
  cases tx with
  | issue w => exact issue_answers s w
  | reset | regRead | regWrite | memRead | memWrite | csrRead | csrWrite => exact ⟨_, rfl⟩

/-- Settles O10: the idle step, and the first pending transaction. -/
theorem everyStepAnswersANextState : Obligations.EveryStepAnswersANextState := by
  unfold Obligations.EveryStepAnswersANextState
  intro s
  cases hp : s.port with
  | nil => exact ⟨s, step_idle hp⟩
  | cons tx rest =>
    rw [step_transact hp]
    exact transact_answers (s.taken rest) tx

/-! ## What `Reset` leaves (R251, R252) -/

/-- While `TBLRDY = 0` every command that reads the tables takes `TablesNotReady` before any other check (R105). -/
theorem exec_of_needsTables {i : Instr} {s : State} (hi : needsTables i = true) (hrdy : s.tblRdy = false) :
    exec i s = .next (s.takeError .tablesNotReady (encode i) 0) := by
  cases i with
  | gfmul | gfdiv | gfinv | gfpow | gfexp | gflog | rsenc | rsdec => exact unready_check hrdy _ _
  | gfinit | gfadd | bchfmt | bchver | blkinfo | deintl | intl | thresh => simp [needsTables, raises] at hi

@[simp] theorem reg_resetTx (s : State) (i : Reg) : s.resetTx.reg i = 0 :=
  (reg_congr (resetTx_regs s) i).trans (reg_reset i)

/-- The fields of `THRCFG` after reset: tiles of 8 by 8, windows of 5 by 5 tiles, the mean (R251). -/
theorem resetTx_threshold (s : State) :
    s.resetTx.tlog = 3 ∧ s.resetTx.wrad = 2 ∧ s.resetTx.median = false := by
  simp [State.tlog, State.wrad, State.median, State.reset, slice]

/-- `STATUS` reads 0 after reset: `READY`, and no tables (R35, R251). -/
theorem resetTx_status (s : State) : s.resetTx.status = 0 := rfl

/-- Settles O13: the reset values stand in `State.reset`, memory and parameters are those of `s`, and `TBLRDY = 0` lets
no command read the tables. -/
theorem resetTransactionRestoresResetValues : Obligations.ResetTransactionRestoresResetValues := by
  unfold Obligations.ResetTransactionRestoresResetValues
  intro s rest hp
  obtain ⟨htlog, hwrad, hmedian⟩ := resetTx_threshold (s.taken rest)
  exact ⟨(s.taken rest).resetTx, step_transact hp, reg_resetTx _, rfl, rfl, rfl, rfl, rfl, rfl, rfl, rfl, rfl, rfl,
    htlog, hwrad, hmedian, resetTx_status _, fun _ => rfl, rfl, rfl, rfl, fun _ hi => exec_of_needsTables hi rfl⟩

end Sys2Proof.Proofs
